-- ==== Sys2Proof/Word.lean ====
section
/-!
DEFINITION. The unsigned widths of the block (R6): a byte, a 32-bit register word, the 16-bit
command word and the 16-bit response word. All values are unsigned; the block has no signed
quantity.
-/

namespace Sys2Proof

/-- A byte, 8 bits (R6). -/
abbrev Byte := BitVec 8

/-- A 32-bit register value or table entry (R11, R27). -/
abbrev Word := BitVec 32

/-- A command word at the command port (R41). -/
abbrev CmdWord := BitVec 16

/-- A response word at the response port (R43). -/
abbrev RspWord := BitVec 16

/-- The bit slice `v[lo+n-1:lo]` of R6: bit 0 is the least significant bit. -/
abbrev slice {w : Nat} (lo n : Nat) (v : BitVec w) : BitVec n := v.extractLsb' lo n

end Sys2Proof
end

