-- ==== Sys2Proof/Syntax.lean ====
section
/-!
DEFINITION. The command set ZSC-1 (R44): one constructor per row of spec/opcode_table.json, with
its operands as the command word carries them (`idx` four bits, `imm` a byte, R41), and the seven
fault codes of R88.
-/

namespace Sys2Proof

/-- The fifteen commands of R44. `idx` is the 4-bit index operand, `imm` the byte operand. -/
inductive Instr where
  /-- R82: does nothing. -/
  | nop
  /-- R62: K receives the three seed constants. -/
  | seed
  /-- R63: K is advanced by `imm`. -/
  | adv (imm : Byte)
  /-- R64: answers the keystream byte of K. -/
  | ksb
  /-- R65: encrypts `imm`. -/
  | enc (imm : Byte)
  /-- R66: decrypts `imm`. -/
  | dec (imm : Byte)
  /-- R74: copies K to B. -/
  | save
  /-- R75: copies B to K. -/
  | rest
  /-- R76: loads random byte `idx`. -/
  | ldr (idx : BitVec 4) (imm : Byte)
  /-- R77: loads byte `idx` of the check value. -/
  | ldc (idx : BitVec 4) (imm : Byte)
  /-- R78: builds the encryption header. -/
  | hdr
  /-- R79: answers header byte `idx`. -/
  | rdh (idx : BitVec 4)
  /-- R83: answers byte `idx` of K. -/
  | rdk (idx : BitVec 4)
  /-- R84: writes byte `idx` of K. -/
  | wrk (idx : BitVec 4) (imm : Byte)
  /-- R85: answers status byte `idx`. -/
  | rds (idx : BitVec 4)
deriving DecidableEq, Repr

/-- The seven faults of R88, named as the spec names them. -/
inductive FaultCode where
  /-- Code 1: `op = 0xF`. -/
  | reservedOpcode
  /-- Code 2: a field the command does not use is nonzero. -/
  | reservedField
  /-- Code 3: `idx` is above the command's range. -/
  | indexRange
  /-- Code 4: the command reads K while KV = 0. -/
  | keyInvalid
  /-- Code 5: the command reads B while BV = 0. -/
  | baseInvalid
  /-- Code 6: HDR while not all header inputs are loaded. -/
  | hdrInput
  /-- Code 7: RDH while HV = 0. -/
  | hdrOutput
deriving DecidableEq, Repr

end Sys2Proof
end

