-- ==== Sys2Proof/WellFormed.lean ====
section
/-!
DEFINITION. Which commands are legal as syntax: the index operand is in the range R42 gives the
command (at most 11 for LDR, RDH, RDK and WRK; at most 1 for LDC; at most 2 for RDS). A byte
operand may be any byte.
-/

namespace Sys2Proof

/-- The index operand is in the command's range (R42). -/
def Instr.wellFormed : Instr → Bool
  | .nop => true
  | .seed => true
  | .adv _ => true
  | .ksb => true
  | .enc _ => true
  | .dec _ => true
  | .save => true
  | .rest => true
  | .ldr idx _ => decide (idx.toNat ≤ 11)
  | .ldc idx _ => decide (idx.toNat ≤ 1)
  | .hdr => true
  | .rdh idx => decide (idx.toNat ≤ 11)
  | .rdk idx => decide (idx.toNat ≤ 11)
  | .wrk idx _ => decide (idx.toNat ≤ 11)
  | .rds idx => decide (idx.toNat ≤ 2)

end Sys2Proof
end

