-- ==== Sys2Proof/Decode.lean ====
section
/-!
DEFINITION. The decoder and the encoder of the 16-bit command word (R41 to R46). The decoder is
total: it answers a command, or the fault code R45 gives the word (reserved opcode, then reserved
field, then index range: the lowest code that applies, R89). The encoder writes the fields of R41.
-/

namespace Sys2Proof

/-- `op = cmd[15:12]` (R41). -/
def opField (w : CmdWord) : BitVec 4 := slice 12 4 w

/-- `idx = cmd[11:8]` (R41). -/
def idxField (w : CmdWord) : BitVec 4 := slice 8 4 w

/-- `imm = cmd[7:0]` (R41). -/
def immField (w : CmdWord) : Byte := slice 0 8 w

/-- A command with no operand: both fields must be zero (R42). -/
def decodeBare (i : Instr) (idx : BitVec 4) (imm : Byte) : Except FaultCode Instr :=
  if idx = 0 ∧ imm = 0 then .ok i else .error .reservedField

/-- A command with a byte operand only: `idx` must be zero (R42). -/
def decodeByte (c : Byte → Instr) (idx : BitVec 4) (imm : Byte) : Except FaultCode Instr :=
  if idx = 0 then .ok (c imm) else .error .reservedField

/-- A command with an index operand only: `imm` must be zero, then `idx` at most `top` (R42, R45). -/
def decodeIndex (c : BitVec 4 → Instr) (top : Nat) (idx : BitVec 4) (imm : Byte) :
    Except FaultCode Instr :=
  if imm ≠ 0 then .error .reservedField
  else if top < idx.toNat then .error .indexRange
  else .ok (c idx)

/-- A command with both operands: `idx` at most `top` (R42). -/
def decodeIndexByte (c : BitVec 4 → Byte → Instr) (top : Nat) (idx : BitVec 4) (imm : Byte) :
    Except FaultCode Instr :=
  if top < idx.toNat then .error .indexRange else .ok (c idx imm)

/-- The command of the three fields, or the fault of R45 lines 2 to 4. For `op = 0xF` the other
fields are not examined (R45, R86). -/
def decodeFields (op idx : BitVec 4) (imm : Byte) : Except FaultCode Instr :=
  match op.toNat with
  | 0x0 => decodeBare .nop idx imm
  | 0x1 => decodeBare .seed idx imm
  | 0x2 => decodeByte .adv idx imm
  | 0x3 => decodeBare .ksb idx imm
  | 0x4 => decodeByte .enc idx imm
  | 0x5 => decodeByte .dec idx imm
  | 0x6 => decodeBare .save idx imm
  | 0x7 => decodeBare .rest idx imm
  | 0x8 => decodeIndexByte .ldr 11 idx imm
  | 0x9 => decodeIndexByte .ldc 1 idx imm
  | 0xA => decodeBare .hdr idx imm
  | 0xB => decodeIndex .rdh 11 idx imm
  | 0xC => decodeIndex .rdk 11 idx imm
  | 0xD => decodeIndexByte .wrk 11 idx imm
  | 0xE => decodeIndex .rds 2 idx imm
  | _ => .error .reservedOpcode

/-- The command a word spells, or the decode fault it raises (R45, R46). -/
def decode (w : CmdWord) : Except FaultCode Instr :=
  decodeFields (opField w) (idxField w) (immField w)

/-- The opcode of a command, `op = cmd[15:12]` (R44). -/
def Instr.opcode : Instr → BitVec 4
  | .nop => 0x0 | .seed => 0x1 | .adv _ => 0x2 | .ksb => 0x3
  | .enc _ => 0x4 | .dec _ => 0x5 | .save => 0x6 | .rest => 0x7
  | .ldr _ _ => 0x8 | .ldc _ _ => 0x9 | .hdr => 0xA | .rdh _ => 0xB
  | .rdk _ => 0xC | .wrk _ _ => 0xD | .rds _ => 0xE

/-- The index field of a command's word: the operand, or 0 where it must be zero (R42). -/
def Instr.idxField : Instr → BitVec 4
  | .nop => 0 | .seed => 0 | .adv _ => 0 | .ksb => 0
  | .enc _ => 0 | .dec _ => 0 | .save => 0 | .rest => 0
  | .ldr idx _ => idx | .ldc idx _ => idx | .hdr => 0 | .rdh idx => idx
  | .rdk idx => idx | .wrk idx _ => idx | .rds idx => idx

/-- The byte field of a command's word: the operand, or 0 where it must be zero (R42). -/
def Instr.immField : Instr → Byte
  | .nop => 0 | .seed => 0 | .adv imm => imm | .ksb => 0
  | .enc imm => imm | .dec imm => imm | .save => 0 | .rest => 0
  | .ldr _ imm => imm | .ldc _ imm => imm | .hdr => 0 | .rdh _ => 0
  | .rdk _ => 0 | .wrk _ imm => imm | .rds _ => 0

/-- The word of three fields: op in bits 15:12, idx in bits 11:8, imm in bits 7:0 (R41). -/
def packWord (op idx : BitVec 4) (imm : Byte) : CmdWord := op ++ idx ++ imm

/-- The command word of a command (R41, R42, R44). -/
def encode (i : Instr) : CmdWord := packWord i.opcode i.idxField i.immField

/-- The instruction the decoder reads from a command whose low `nbits` bits are those of `w`,
numbered as spec/opcode_table.json numbers them; every bit above `nbits` is 0. The command is one
16-bit word, presented whole at the command port (R41), so no byte order enters. -/
def decodeTableWord (nbits w : Nat) : Option Instr :=
  if w % 2 ^ nbits < 2 ^ 16 then
    match decode (BitVec.ofNat 16 (w % 2 ^ nbits)) with
    | .ok i => some i
    | .error _ => none
  else none

end Sys2Proof
end

