-- ==== Sys2Proof/Config.lean ====
section
/-!
DEFINITION. What is fixed for the machine and is no state. The spec leaves no parameter open
(92_eei_decisions.md, 93_implementation_defined.md), so there is no free value here. What stands
here are the contents the MODEL gives at reset to the data registers, for which the spec states
none (R26: "unspecified", the registers hold no value): zero, DESIGN CHOICE, unsafe, log entry 1.
No command can observe them while the valid flag is 0 (statement O52).
-/

namespace Sys2Proof

/-- DESIGN CHOICE (log entry 1): what each 32-bit word of K and B holds at reset. -/
def Config.resetWord : Word := 0

/-- DESIGN CHOICE (log entry 1): what each byte of R and H holds at reset. -/
def Config.resetByte : Byte := 0

/-- DESIGN CHOICE (log entry 1): what CHK holds at reset. -/
def Config.resetCheck : BitVec 16 := 0

end Sys2Proof
end

