-- ==== Sys2Proof/Machine/State.lean ====
section
/-!
DEFINITION. The state of the ZSC block as plain data (10_state.md), its ports (R40), and the state
right after reset (R26, R98). `Fault` and `Refusal` are the host interface's reasons to stop: no
step of this model uses either, because every fault of the spec is a state the block goes on from
(R90, R91).
-/

namespace Sys2Proof.Machine

/-- A cipher state as a value: the triple of R10. -/
structure Keys where
  k0 : Word
  k1 : Word
  k2 : Word
deriving DecidableEq, Repr

/-- One cycle of the input ports as the host drives them (R40): `rst`, `cmd_valid`, `cmd`,
`rsp_ready`. `cmd` means nothing while `cmd_valid` is 0. -/
structure HostCycle where
  rst : Bool
  cmdValid : Bool
  cmd : CmdWord
  rspReady : Bool
deriving DecidableEq, Repr

/-- The reasons the host interface's `fault` outcome could carry: NONE. The seven faults of R88 are
no stop of the machine: each is taken as a next state that records it (R90), so this type has no
constructor and no step answers `fault` (log entry 6; safe). -/
inductive Fault where
deriving DecidableEq, Repr

/-- The reasons the host interface's `refused` outcome can carry. -/
inductive Refusal where
  /-- Raised by an arm of `exec` whose instruction has no meaning yet; safe. No arm does: every
  command of the opcode table has its meaning. -/
  | notModelled (mnemonic : String)
deriving DecidableEq, Repr

/-- All the state of the block (10_state.md section 1), the response port, and the host's side of
the ports. -/
structure State where
  /-- K0, K1, K2 (R11). -/
  k : Keys
  /-- B0, B1, B2: the base key (R15). -/
  b : Keys
  /-- R0..R11: the random bytes for the next header (R17). -/
  r : Vector Byte 12
  /-- CHK: the check value for the next header (R18). -/
  chk : BitVec 16
  /-- H0..H11: the finished header (R19). -/
  h : Vector Byte 12
  /-- KV: K holds a value (R14). -/
  kv : Bool
  /-- BV: B holds a value (R16). -/
  bv : Bool
  /-- HV: H holds a value (R19). -/
  hv : Bool
  /-- RV: bit i says R[i] holds a value (R17). -/
  rv : BitVec 12
  /-- CV: bit 0 says CHK[7:0] holds a value, bit 1 says CHK[15:8] does (R18). -/
  cv : BitVec 2
  /-- ERR: the block has faulted (R22). -/
  err : Bool
  /-- ECODE: the code of the first fault (R22). -/
  ecode : BitVec 4
  /-- The response port: the response word waiting to be delivered; `rsp_valid` is 1 exactly when
  there is one (R40; log entry 3). -/
  rsp : Option RspWord
  /-- The model's own: the port cycles the host has still to drive, the next one first (log
  entry 2). -/
  inputs : List HostCycle
  /-- The model's own: the responses the host has received, oldest first (R109; log entry 2). -/
  delivered : List RspWord
deriving DecidableEq, Repr

/-- What K and B hold at reset: DESIGN CHOICE, log entry 1. -/
def Keys.atReset : Keys := ⟨Config.resetWord, Config.resetWord, Config.resetWord⟩

/-- The state right after reset (R26, R98): every valid flag 0, no fault recorded, no response
presented. The data registers hold no value the spec states; what the model lets them hold is log
entry 1. -/
def State.reset : State where
  k := Keys.atReset
  b := Keys.atReset
  r := Vector.replicate 12 Config.resetByte
  chk := Config.resetCheck
  h := Vector.replicate 12 Config.resetByte
  kv := false
  bv := false
  hv := false
  rv := 0
  cv := 0
  err := false
  ecode := 0
  rsp := none
  inputs := []
  delivered := []

end Sys2Proof.Machine
end

