-- ==== Sys2Proof/Machine/Flags.lean ====
section
/-!
DEFINITION. The valid flags and the STATUS view (R14, R16 to R21). The block has no arithmetic
condition codes (R20).
-/

namespace Sys2Proof.Machine

/-- RFULL: all twelve random bytes are loaded, `RV = 0xFFF` (R17, R21). -/
def randomFull (rv : BitVec 12) : Bool := rv == 0xFFF

/-- Both halves of the check value are loaded, `CV = 0b11` (R18). -/
def checkFull (cv : BitVec 2) : Bool := cv == 0b11

/-- `RV[i] <- 1` (R17). -/
def markRandom (rv : BitVec 12) (i : Fin 12) : BitVec 12 := rv ||| ((1 : BitVec 12) <<< i.val)

/-- `CV[i] <- 1` (R18). -/
def markCheck (cv : BitVec 2) (i : Fin 2) : BitVec 2 := cv ||| ((1 : BitVec 2) <<< i.val)

/-- STATUS: two zero bits, RFULL, CV[1], CV[0], HV, BV, KV from bit 7 down to bit 0 (R21). -/
def statusByte (s : State) : Byte :=
  (0 : BitVec 2) ++ BitVec.ofBool (randomFull s.rv) ++ BitVec.ofBool (s.cv.getLsbD 1)
    ++ BitVec.ofBool (s.cv.getLsbD 0) ++ BitVec.ofBool s.hv ++ BitVec.ofBool s.bv
    ++ BitVec.ofBool s.kv

/-- The status byte `RDS i` answers (R85): STATUS, `RV[7:0]`, or zeros and `RV[11:8]`. -/
def readStatus (s : State) (i : Fin 3) : Byte :=
  match i with
  | 0 => statusByte s
  | 1 => slice 0 8 s.rv
  | 2 => (0 : BitVec 4) ++ slice 8 4 s.rv

end Sys2Proof.Machine
end

