-- ==== Sys2Proof/Machine/Operands.lean ====
section
/-!
DEFINITION. The operand forms (R41, R42): the byte operand is used as it stands; the 4-bit index
operand is a position in an index space (R35), or out of its range, which is `Fault(3)` (R88).
-/

namespace Sys2Proof.Machine

/-- The index as a position in a space of `n` places: `require idx <= n - 1`. -/
def indexIn (n : Nat) (idx : BitVec 4) : Option (Fin n) :=
  if h : idx.toNat < n then some ⟨idx.toNat, h⟩ else none

/-- Position in R, in H or in the bytes of K: 0 to 11 (R76, R79, R83, R84). -/
def byteIndex (idx : BitVec 4) : Option (Fin 12) := indexIn 12 idx

/-- Byte of the check value: 0 low, 1 high (R77). -/
def checkIndex (idx : BitVec 4) : Option (Fin 2) := indexIn 2 idx

/-- Status byte: 0 to 2 (R85). -/
def statusIndex (idx : BitVec 4) : Option (Fin 3) := indexIn 3 idx

end Sys2Proof.Machine
end

