-- ==== Sys2Proof/Machine/Cipher.lean ====
section
/-!
DEFINITION. The pure functions of the stream cipher (40_stream_cipher.md section 1): seedState,
advance, keystreamByte, encryptByte, decryptByte, initState, encryptBytes, decryptBytes.
-/

namespace Sys2Proof.Machine

/-- `seedState` (R50). -/
def seedState : Keys := ⟨0x12345678, 0x23456789, 0x34567890⟩

/-- The K1 multiplier 134775813 = 0x08088405 (R51). -/
def k1Multiplier : Word := 0x08088405

/-- `advance(k, b)` (R51): three sequential lines, the second using the new K0, the third the new
K1. Every operation wraps at 32 bits (R57) and the shifts are logical (R58). -/
def advance (k : Keys) (b : Byte) : Keys :=
  let k0' := (k.k0 >>> 8) ^^^ T (slice 0 8 k.k0 ^^^ b)
  let k1' := (k.k1 + (slice 0 8 k0').setWidth 32) * k1Multiplier + 1
  let k2' := (k.k2 >>> 8) ^^^ T (slice 0 8 k.k2 ^^^ slice 24 8 k1')
  ⟨k0', k1', k2'⟩

/-- `keystreamByte(k)` (R52): a 16-bit `temp`, a 32-bit product, its bits 15:8. -/
def keystreamByte (k : Keys) : Byte :=
  let temp : BitVec 16 := slice 0 16 (k.k2 ||| 2)
  let prod : BitVec 32 := temp.setWidth 32 * (temp ^^^ 1).setWidth 32
  slice 8 8 prod

/-- `encryptByte(k, p)` (R53): the keystream byte of the state before the update, the update driven
by the plaintext byte. -/
def encryptByte (k : Keys) (p : Byte) : Keys × Byte := (advance k p, p ^^^ keystreamByte k)

/-- `decryptByte(k, c)` (R54): the update driven by the recovered plaintext byte. -/
def decryptByte (k : Keys) (c : Byte) : Keys × Byte :=
  (advance k (c ^^^ keystreamByte k), c ^^^ keystreamByte k)

/-- `initState(pw)` started from a given state: `advance` once per byte, in order (R55). -/
def absorb : Keys → List Byte → Keys
  | k, [] => k
  | k, p :: ps => absorb (advance k p) ps

/-- `initState(pw)` (R55). -/
def initState (pw : List Byte) : Keys := absorb seedState pw

/-- `encryptBytes(k, ps)` (R56). -/
def encryptBytes : Keys → List Byte → Keys × List Byte
  | k, [] => (k, [])
  | k, p :: ps =>
    ((encryptBytes (encryptByte k p).1 ps).1,
      (encryptByte k p).2 :: (encryptBytes (encryptByte k p).1 ps).2)

/-- `decryptBytes(k, cs)` (R56). -/
def decryptBytes : Keys → List Byte → Keys × List Byte
  | k, [] => (k, [])
  | k, c :: cs =>
    ((decryptBytes (decryptByte k c).1 cs).1,
      (decryptByte k c).2 :: (decryptBytes (decryptByte k c).1 cs).2)

/-- "The ciphertext has the length of the plaintext" (R56). -/
theorem encryptBytes_length (k : Keys) (ps : List Byte) :
    (encryptBytes k ps).2.length = ps.length := by
  induction ps generalizing k with
  | nil => rfl
  | cons p ps ih => simp [encryptBytes, ih]

end Sys2Proof.Machine
end

