-- ==== Sys2Proof/Machine/Ops.lean ====
section
/-!
DEFINITION. The named operations over the state: the bytes of K, the response word, the end of a
command (`respond`), TAKING A FAULT (`raiseFault`, R90), the sticky fault state (R91), and the only
way out of it, reset (R92, R98).
-/

namespace Sys2Proof.Machine

/-- `K[i]` for a register number (R8); register 2 is the last. -/
def keyWord (k : Keys) (i : Nat) : Word :=
  match i with
  | 0 => k.k0
  | 1 => k.k1
  | _ => k.k2

/-- `K[i] <- v` (R8). -/
def setKeyWord (k : Keys) (i : Nat) (v : Word) : Keys :=
  match i with
  | 0 => { k with k0 := v }
  | 1 => { k with k1 := v }
  | _ => { k with k2 := v }

/-- The bit position of byte position `i` in its register: `s = 8 * (i AND 3)` (R83, R31). -/
def byteShift (i : Fin 12) : Nat := 8 * (i.val % 4)

/-- The byte at position `i` of K: register `i >> 2`, byte `i AND 3`, little-endian (R83, R31). -/
def readKeyByte (k : Keys) (i : Fin 12) : Byte :=
  slice 0 8 (keyWord k (i.val / 4) >>> byteShift i)

/-- K with the byte at position `i` replaced and every other bit kept (R84). -/
def writeKeyByte (k : Keys) (i : Fin 12) (v : Byte) : Keys :=
  setKeyWord k (i.val / 4)
    ((keyWord k (i.val / 4) &&& ~~~((0xFF : Word) <<< byteShift i))
      ||| (v.setWidth 32 <<< byteShift i))

/-- The check value with its low byte (`i` = 0) or its high byte (`i` = 1) replaced (R77). -/
def writeCheckByte (chk : BitVec 16) (i : Fin 2) (v : Byte) : BitVec 16 :=
  match i with
  | 0 => slice 8 8 chk ++ v
  | 1 => v ++ slice 0 8 chk

/-- The 4-bit code of a fault (R88). -/
def faultBits : FaultCode → BitVec 4
  | .reservedOpcode => 1
  | .reservedField => 2
  | .indexRange => 3
  | .keyInvalid => 4
  | .baseInvalid => 5
  | .hdrInput => 6
  | .hdrOutput => 7

/-- The response word: zero in 15:13, ERR in 12, ECODE in 11:8, DATA in 7:0 (R43). -/
def responseWord (err : Bool) (ecode : BitVec 4) (data : Byte) : RspWord :=
  (0 : BitVec 3) ++ BitVec.ofBool err ++ ecode ++ data

/-- `respond(d)`: the command ends with response data byte `d` and ERR = 0, the word `0x00dd`
(R9, R43: ECODE is 0x0 while ERR = 0). Only a command that met no fault responds. -/
def respond (d : Byte) (s : State) : State :=
  { s with rsp := some (responseWord false 0 d) }

/-- `raise Fault(c)`: TAKING A FAULT. ERR and ECODE are written, the response is
0x1000 OR (c << 8), and nothing else changes (R90). -/
def raiseFault (c : FaultCode) (s : State) : State :=
  { s with
    err := true
    ecode := faultBits c
    rsp := some (responseWord true (faultBits c) 0) }

/-- The answer to every word while ERR = 1: the recorded code, no other change (R91). -/
def answerRecorded (s : State) : State :=
  { s with rsp := some (responseWord true s.ecode 0) }

/-- `require p else Fault(c)` followed by `body` (R9). -/
def require (p : Bool) (c : FaultCode) (s : State) (body : State) : State :=
  if p then body else raiseFault c s

/-- One accepted word: line 1 of R45 (nothing executes while ERR = 1, R91), and otherwise the
command's own effect `body`. Every command and every illegal word ends here (log entry 7). -/
def command (s : State) (body : State) : Host.Outcome State Fault Refusal :=
  .next (if s.err then answerRecorded s else body)

/-- The effect of a cycle with `rst` = 1, the only way out of the fault state (R92, R98): the block
is in the reset state of R26 and no response is presented. What the host has still to drive and
what it has received are the host's and stay (log entry 5). -/
def resetBlock (s : State) : State :=
  { State.reset with inputs := s.inputs, delivered := s.delivered }

/-- The delivery of the waiting response to the host (R40); nothing where none waits. -/
def deliver (s : State) : State :=
  match s.rsp with
  | none => s
  | some w => { s with rsp := none, delivered := s.delivered ++ [w] }

end Sys2Proof.Machine
end

