-- ==== Sys2Proof/Machine/Access.lean ====
section
/-!
DEFINITION. The access and status commands: NOP, RDK, WRK, RDS (42_access_status.md).
-/

namespace Sys2Proof.Machine

/-- NOP (R82). -/
def execNop (s : State) : Host.Outcome State Fault Refusal :=
  command s (respond 0 s)

/-- RDK idx (R83): `idx <= 11` else Fault(3), `KV = 1` else Fault(4), answers byte `idx` of K. -/
def execRdk (idx : BitVec 4) (s : State) : Host.Outcome State Fault Refusal :=
  command s <|
    match byteIndex idx with
    | none => raiseFault .indexRange s
    | some i => require s.kv .keyInvalid s (respond (readKeyByte s.k i) s)

/-- WRK idx, imm (R84): `idx <= 11` else Fault(3), `KV = 1` else Fault(4), byte `idx` of K becomes
`imm`. -/
def execWrk (idx : BitVec 4) (imm : Byte) (s : State) : Host.Outcome State Fault Refusal :=
  command s <|
    match byteIndex idx with
    | none => raiseFault .indexRange s
    | some i =>
      require s.kv .keyInvalid s (respond 0 { s with k := writeKeyByte s.k i imm })

/-- RDS idx (R85): `idx <= 2` else Fault(3), answers the status byte. -/
def execRds (idx : BitVec 4) (s : State) : Host.Outcome State Fault Refusal :=
  command s <|
    match statusIndex idx with
    | none => raiseFault .indexRange s
    | some i => respond (readStatus s i) s

end Sys2Proof.Machine
end

