-- ==== Sys2Proof/Machine/Header.lean ====
section
/-!
DEFINITION. The two-pass construction of the encryption header as a pure function (R69).
-/

namespace Sys2Proof.Machine

/-- The ciphertext of a fixed number of bytes, as many as went in (R56). -/
def encryptVector {n : Nat} (k : Keys) (v : Vector Byte n) : Vector Byte n :=
  ⟨(encryptBytes k v.toList).2.toArray, by simp [encryptBytes_length]⟩

/-- Step 4 of R69: `e1` with byte 10 the low byte and byte 11 the high byte of the check value
(R30). -/
def checkBuffer (e1 : Vector Byte 12) (chk : BitVec 16) : Vector Byte 12 :=
  (e1.set 10 (slice 0 8 chk)).set 11 (slice 8 8 chk)

/-- The step-4 buffer: the random bytes under pass 1, the check value over the last two (R69 steps
1, 3 and 4). The end state of pass 1 is discarded. -/
def headerBuffer (base : Keys) (r : Vector Byte 12) (chk : BitVec 16) : Vector Byte 12 :=
  checkBuffer (encryptVector base r) chk

/-- `buildHeader(base, r, chk)` (R69): the end state of pass 2 and the header E2. Both passes start
from `base`. -/
def buildHeader (base : Keys) (r : Vector Byte 12) (chk : BitVec 16) : Keys × Vector Byte 12 :=
  ((encryptBytes base (headerBuffer base r chk).toList).1,
    encryptVector base (headerBuffer base r chk))

end Sys2Proof.Machine
end

