-- ==== Sys2Proof/Machine/HeaderCodec.lean ====
section
/-!
DEFINITION. The entry header codec commands: SAVE, REST, LDR, LDC, HDR, RDH (41_header_codec.md
section 3).
-/

namespace Sys2Proof.Machine

/-- SAVE (R74). -/
def execSave (s : State) : Host.Outcome State Fault Refusal :=
  command s (require s.kv .keyInvalid s (respond 0 { s with b := s.k, bv := true }))

/-- REST (R75). -/
def execRest (s : State) : Host.Outcome State Fault Refusal :=
  command s (require s.bv .baseInvalid s (respond 0 { s with k := s.b, kv := true }))

/-- LDR idx, imm (R76). -/
def execLdr (idx : BitVec 4) (imm : Byte) (s : State) : Host.Outcome State Fault Refusal :=
  command s <|
    match byteIndex idx with
    | none => raiseFault .indexRange s
    | some i => respond 0 { s with r := s.r.set i imm, rv := markRandom s.rv i }

/-- LDC idx, imm (R77). -/
def execLdc (idx : BitVec 4) (imm : Byte) (s : State) : Host.Outcome State Fault Refusal :=
  command s <|
    match checkIndex idx with
    | none => raiseFault .indexRange s
    | some i => respond 0 { s with chk := writeCheckByte s.chk i imm, cv := markCheck s.cv i }

/-- HDR (R78): `BV = 1` else Fault(5), then `RV = 0xFFF` and `CV = 0b11` else Fault(6). H receives
the header, K the end state of pass 2, and the header inputs are consumed. The contents of R and
CHK, no longer valid, stay (log entry 10). -/
def execHdr (s : State) : Host.Outcome State Fault Refusal :=
  command s (require s.bv .baseInvalid s
    (require (randomFull s.rv && checkFull s.cv) .hdrInput s
      (respond 0
        { s with
          k := (buildHeader s.b s.r s.chk).1
          h := (buildHeader s.b s.r s.chk).2
          kv := true
          hv := true
          rv := 0
          cv := 0 })))

/-- RDH idx (R79): `idx <= 11` else Fault(3), `HV = 1` else Fault(7), answers H[idx]. -/
def execRdh (idx : BitVec 4) (s : State) : Host.Outcome State Fault Refusal :=
  command s <|
    match byteIndex idx with
    | none => raiseFault .indexRange s
    | some i => require s.hv .hdrOutput s (respond s.h[i] s)

end Sys2Proof.Machine
end

