-- ==== Sys2Proof/Machine/StreamCipher.lean ====
section
/-!
DEFINITION. The stream cipher commands: SEED, ADV, KSB, ENC, DEC (40_stream_cipher.md section 3).
-/

namespace Sys2Proof.Machine

/-- SEED (R62). -/
def execSeed (s : State) : Host.Outcome State Fault Refusal :=
  command s (respond 0 { s with k := seedState, kv := true })

/-- ADV imm (R63). -/
def execAdv (imm : Byte) (s : State) : Host.Outcome State Fault Refusal :=
  command s (require s.kv .keyInvalid s (respond 0 { s with k := advance s.k imm }))

/-- KSB (R64). -/
def execKsb (s : State) : Host.Outcome State Fault Refusal :=
  command s (require s.kv .keyInvalid s (respond (keystreamByte s.k) s))

/-- ENC imm (R65). -/
def execEnc (imm : Byte) (s : State) : Host.Outcome State Fault Refusal :=
  command s (require s.kv .keyInvalid s
    (respond (encryptByte s.k imm).2 { s with k := (encryptByte s.k imm).1 }))

/-- DEC imm (R66). -/
def execDec (imm : Byte) (s : State) : Host.Outcome State Fault Refusal :=
  command s (require s.kv .keyInvalid s
    (respond (decryptByte s.k imm).2 { s with k := (decryptByte s.k imm).1 }))

end Sys2Proof.Machine
end

