-- ==== Sys2Proof/Machine/Dispatch.lean ====
section
/-!
DEFINITION. The meaning of every command of the opcode table: one arm per constructor, each one
direct call.
-/

namespace Sys2Proof.Machine

def exec (i : Instr) (s : State) : Host.Outcome State Fault Refusal :=
  match i with
  | .nop => Sys2Proof.Machine.execNop s
  | .seed => Sys2Proof.Machine.execSeed s
  | .adv imm => Sys2Proof.Machine.execAdv imm s
  | .ksb => Sys2Proof.Machine.execKsb s
  | .enc imm => Sys2Proof.Machine.execEnc imm s
  | .dec imm => Sys2Proof.Machine.execDec imm s
  | .save => Sys2Proof.Machine.execSave s
  | .rest => Sys2Proof.Machine.execRest s
  | .ldr idx imm => Sys2Proof.Machine.execLdr idx imm s
  | .ldc idx imm => Sys2Proof.Machine.execLdc idx imm s
  | .hdr => Sys2Proof.Machine.execHdr s
  | .rdh idx => Sys2Proof.Machine.execRdh idx s
  | .rdk idx => Sys2Proof.Machine.execRdk idx s
  | .wrk idx imm => Sys2Proof.Machine.execWrk idx imm s
  | .rds idx => Sys2Proof.Machine.execRds idx s

end Sys2Proof.Machine
end

