-- ==== Sys2Proof/Machine/Port.lean ====
section
/-!
DEFINITION. The ports (R40): which port cycle does what. A step of the machine is one cycle of the
ports. A command is accepted only while no response waits; its effect and its response are complete
in that step (R36, log entry 3); the response is delivered in a later cycle in which the host takes
it.
-/

namespace Sys2Proof.Machine

/-- `cmd_ready`: no response waits to be delivered (R40). -/
def cmdReady (s : State) : Bool := s.rsp.isNone

/-- `rsp_valid`: a response waits to be delivered (R40). -/
def rspValid (s : State) : Bool := s.rsp.isSome

/-- The block takes an accepted word (R45): a word that spells no command raises its decode fault,
any other is executed. Line 1 of R45, the fault state, is in `command`, which both branches go
through. -/
def accept (w : CmdWord) (s : State) : Host.Outcome State Fault Refusal :=
  match decode w with
  | .error c => command s (raiseFault c s)
  | .ok i => exec i s

/-- One port cycle (R40, R98): reset has the upper hand; then a waiting response is delivered if the
host takes it; if none waits, a presented word is accepted; in every other cycle nothing happens. -/
def portCycle (c : HostCycle) (s : State) : Host.Outcome State Fault Refusal :=
  if c.rst then .next (resetBlock s)
  else if rspValid s then .next (if c.rspReady then deliver s else s)
  else if c.cmdValid then accept c.cmd s
  else .next s

/-- The next port cycle the host drives. Where the host drives nothing more the block is idle and
keeps all state (R95, R109; log entry 9). -/
def nextCycle (s : State) : Host.Outcome State Fault Refusal :=
  match s.inputs with
  | [] => .next s
  | c :: rest => portCycle c { s with inputs := rest }

/-- The cycle in which the host presents a word and takes no response. -/
def presenting (w : CmdWord) : HostCycle := ⟨false, true, w, false⟩

/-- The cycle in which the host takes the response and presents no word. -/
def taking : HostCycle := ⟨false, false, 0, true⟩

/-- The host has taken any waiting response and presents the word next, before the cycles it had
planned (log entry 4). -/
def present (w : CmdWord) (s : State) : State :=
  { deliver s with inputs := presenting w :: s.inputs }

end Sys2Proof.Machine
end

