-- ==== Sys2Proof/Machine/Step.lean ====
section
/-!
DEFINITION. One step of the machine: the next port cycle. `State.withFetchWord` is the host
presenting a command word: the block fetches nothing and has no program counter (R23), so a
program comes to it only through the command port (log entry 4).
-/

namespace Sys2Proof.Machine

/-- One step: the next port cycle the host drives (R40). -/
def step (s : State) : Host.Outcome State Fault Refusal := nextCycle s

/-- `s` with the command whose low `nbits` bits are those of `w`, every higher bit zero, presented
at the command port, so that the very next step accepts it. -/
def State.withFetchWord (s : State) (nbits w : Nat) : State :=
  present (BitVec.ofNat 16 (w % 2 ^ nbits)) s

end Sys2Proof.Machine
end

