-- ==== Sys2Proof/Machine/Assembler.lean ====
section
/-!
DEFINITION. The assembler text of R48, as lists of characters: how a command is written, and how a
line is read. A mnemonic in upper case, then the operands separated by a comma, `idx` first and in
decimal, `imm` second and in hexadecimal with `0x` or as one ASCII character in single quotes;
`.word 0xNNNN` for a raw word; `;` starts a comment (log entry 13).
-/

namespace Sys2Proof.Machine

/-- A piece of a line. -/
inductive Token where
  | word (cs : List Char)
  | comma
  | quoted (c : Char)
deriving DecidableEq, Repr

/-- The upper-case hexadecimal digit of a number below 16. -/
def hexDigit (n : Nat) : Char := if n < 10 then Char.ofNat (48 + n) else Char.ofNat (55 + n)

/-- The value of a hexadecimal digit in either case. -/
def hexValue (c : Char) : Option Nat :=
  if 48 ≤ c.toNat ∧ c.toNat ≤ 57 then some (c.toNat - 48)
  else if 65 ≤ c.toNat ∧ c.toNat ≤ 70 then some (c.toNat - 55)
  else if 97 ≤ c.toNat ∧ c.toNat ≤ 102 then some (c.toNat - 87)
  else none

/-- The value of a decimal digit. -/
def decimalValue (c : Char) : Option Nat :=
  if 48 ≤ c.toNat ∧ c.toNat ≤ 57 then some (c.toNat - 48) else none

/-- A non-empty run of digits as a number, `acc` being the value of the digits before it. -/
def readDigits (digit : Char → Option Nat) (base : Nat) : Nat → List Char → Option Nat
  | _, [] => none
  | acc, [c] => (digit c).map fun d => acc * base + d
  | acc, c :: cs =>
    match digit c with
    | none => none
    | some d => readDigits digit base (acc * base + d) cs

/-- A number in hexadecimal with `0x`, below `bound`. -/
def readHex (bound : Nat) (cs : List Char) : Option Nat :=
  match cs with
  | '0' :: 'x' :: ds =>
    match readDigits hexValue 16 0 ds with
    | some n => if n < bound then some n else none
    | none => none
  | _ => none

/-- The byte operand of a token: hexadecimal, or one ASCII character in single quotes. -/
def readImm : Token → Option Byte
  | .word cs => (readHex 256 cs).map (BitVec.ofNat 8)
  | .quoted c => if c.toNat < 128 then some (BitVec.ofNat 8 c.toNat) else none
  | .comma => none

/-- The index operand of a token: decimal, fitting the four bits of the field. -/
def readIdx : Token → Option (BitVec 4)
  | .word cs =>
    match readDigits decimalValue 10 0 cs with
    | some n => if n < 16 then some (BitVec.ofNat 4 n) else none
    | none => none
  | .quoted _ => none
  | .comma => none

/-- The word read so far, if there is one, in front of the rest; `acc` holds it last character
first. -/
def flushWord (acc : List Char) (rest : List Token) : List Token :=
  if acc.isEmpty then rest else .word acc.reverse :: rest

/-- The pieces of a line up to its comment. -/
def tokens : List Char → List Char → List Token
  | acc, [] => flushWord acc []
  | acc, '\'' :: c :: '\'' :: rest => flushWord acc (.quoted c :: tokens [] rest)
  | acc, c :: rest =>
    if c = ';' then flushWord acc []
    else if c = ',' then flushWord acc (.comma :: tokens [] rest)
    else if c = ' ' ∨ c = '\t' then flushWord acc (tokens [] rest)
    else tokens (c :: acc) rest

/-- A mnemonic with no operand. -/
def bareMnemonic (m : List Char) : Option Instr :=
  if m = ['N', 'O', 'P'] then some .nop
  else if m = ['S', 'E', 'E', 'D'] then some .seed
  else if m = ['K', 'S', 'B'] then some .ksb
  else if m = ['S', 'A', 'V', 'E'] then some .save
  else if m = ['R', 'E', 'S', 'T'] then some .rest
  else if m = ['H', 'D', 'R'] then some .hdr
  else none

/-- A mnemonic with a byte operand only. -/
def byteMnemonic (m : List Char) : Option (Byte → Instr) :=
  if m = ['A', 'D', 'V'] then some .adv
  else if m = ['E', 'N', 'C'] then some .enc
  else if m = ['D', 'E', 'C'] then some .dec
  else none

/-- A mnemonic with an index operand only. -/
def indexMnemonic (m : List Char) : Option (BitVec 4 → Instr) :=
  if m = ['R', 'D', 'H'] then some .rdh
  else if m = ['R', 'D', 'K'] then some .rdk
  else if m = ['R', 'D', 'S'] then some .rds
  else none

/-- A mnemonic with an index and a byte operand. -/
def indexByteMnemonic (m : List Char) : Option (BitVec 4 → Byte → Instr) :=
  if m = ['L', 'D', 'R'] then some .ldr
  else if m = ['L', 'D', 'C'] then some .ldc
  else if m = ['W', 'R', 'K'] then some .wrk
  else none

/-- The command of a mnemonic and one operand. -/
def oneOperand (m : List Char) (a : Token) : Option Instr :=
  match byteMnemonic m with
  | some c => (readImm a).map c
  | none =>
    match indexMnemonic m with
    | some c => (readIdx a).map c
    | none => none

/-- The command of a mnemonic and two operands. -/
def twoOperands (m : List Char) (a b : Token) : Option Instr :=
  match indexByteMnemonic m, readIdx a, readImm b with
  | some c, some idx, some imm => some (c idx imm)
  | _, _, _ => none

/-- The word of a command, which must be legal (R42); an illegal word is written `.word`. -/
def legalWord (i : Instr) : Option CmdWord := if i.wellFormed then some (encode i) else none

/-- What a line that is neither empty nor only a comment stands for: one command word, or an error
(`none`). -/
def assembleTokens : List Token → Option CmdWord
  | [.word m] => (bareMnemonic m).bind legalWord
  | [.word m, a] =>
    match m, a with
    | ['.', 'w', 'o', 'r', 'd'], .word cs => (readHex 65536 cs).map (BitVec.ofNat 16)
    | _, _ => (oneOperand m a).bind legalWord
  | [.word m, a, .comma, b] => (twoOperands m a b).bind legalWord
  | _ => none

/-- The words of a program, one command a line, in order; lines that are empty or only a comment
give none; an error in any line is an error of the program (R48). -/
def assemble : List (List Char) → Option (List CmdWord)
  | [] => some []
  | line :: rest =>
    match tokens [] line with
    | [] => assemble rest
    | t :: ts =>
      match assembleTokens (t :: ts), assemble rest with
      | some w, some ws => some (w :: ws)
      | _, _ => none

/-- `imm` in hexadecimal with `0x`. -/
def immText (v : Byte) : List Char :=
  ['0', 'x', hexDigit (v.toNat / 16), hexDigit (v.toNat % 16)]

/-- `idx` in decimal. -/
def idxText (v : BitVec 4) : List Char :=
  if v.toNat < 10 then [hexDigit v.toNat] else ['1', hexDigit (v.toNat - 10)]

/-- A raw word: `.word 0xNNNN` (R48). -/
def rawText (w : CmdWord) : List Char :=
  ['.', 'w', 'o', 'r', 'd', ' ', '0', 'x', hexDigit (w.toNat / 4096), hexDigit (w.toNat / 256 % 16),
    hexDigit (w.toNat / 16 % 16), hexDigit (w.toNat % 16)]

/-- How a command is written (R48). -/
def assemblyText : Instr → List Char
  | .nop => ['N', 'O', 'P']
  | .seed => ['S', 'E', 'E', 'D']
  | .adv imm => ['A', 'D', 'V', ' '] ++ immText imm
  | .ksb => ['K', 'S', 'B']
  | .enc imm => ['E', 'N', 'C', ' '] ++ immText imm
  | .dec imm => ['D', 'E', 'C', ' '] ++ immText imm
  | .save => ['S', 'A', 'V', 'E']
  | .rest => ['R', 'E', 'S', 'T']
  | .ldr idx imm => ['L', 'D', 'R', ' '] ++ idxText idx ++ [',', ' '] ++ immText imm
  | .ldc idx imm => ['L', 'D', 'C', ' '] ++ idxText idx ++ [',', ' '] ++ immText imm
  | .hdr => ['H', 'D', 'R']
  | .rdh idx => ['R', 'D', 'H', ' '] ++ idxText idx
  | .rdk idx => ['R', 'D', 'K', ' '] ++ idxText idx
  | .wrk idx imm => ['W', 'R', 'K', ' '] ++ idxText idx ++ [',', ' '] ++ immText imm
  | .rds idx => ['R', 'D', 'S', ' '] ++ idxText idx

end Sys2Proof.Machine
end

