-- ==== Sys2Proof/Machine/Run.lean ====
section
/-!
DEFINITION. Runs at the level of the command word (R36, R109): the words take effect one at a time
in order, each response delivered before the next word is accepted; and the port cycles by which a
host that never stalls sends them (R40).
-/

namespace Sys2Proof.Machine

/-- A run: the accepted words in order, each response delivered to the host (R36, R109). -/
def runWords : List CmdWord → State → Host.Outcome State Fault Refusal
  | [], s => .next s
  | w :: ws, s =>
    match accept w s with
    | .next t => runWords ws (deliver t)
    | .fault r => .fault r
    | .refused r => .refused r

/-- A program: a list of commands sent in order (R48). -/
def runCommands (is : List Instr) (s : State) : Host.Outcome State Fault Refusal :=
  runWords (is.map encode) s

/-- The port cycles of a host that presents each word once and takes its response in the next cycle
(R40). -/
def handshake (ws : List CmdWord) : List HostCycle := ws.flatMap fun w => [presenting w, taking]

end Sys2Proof.Machine
end

