-- ==== Sys2Proof/Machine/Pseudo.lean ====
section
/-!
DEFINITION. The pseudo-instructions of R49: fixed expansions into commands. An expansion is not
atomic; it is the list of its commands in order.
-/

namespace Sys2Proof.Machine

/-- The UTF-8 bytes of a text, which the host produces (R49, 92_eei_decisions.md D10). -/
def utf8Bytes (text : String) : List Byte :=
  text.toUTF8.toList.map fun u => BitVec.ofNat 8 u.toNat

/-- `INIT b0, ..., b(n-1)` (R49, R67). -/
def pseudoInit (pw : List Byte) : List Instr := .seed :: pw.map .adv

/-- `INIT "text"` (R49). -/
def pseudoInitText (text : String) : List Instr := pseudoInit (utf8Bytes text)

/-- `KEY` of a byte string: `INIT`, then `SAVE` (R49, R80). -/
def pseudoKey (pw : List Byte) : List Instr := pseudoInit pw ++ [.save]

/-- `KEY "text"` (R49, R80). -/
def pseudoKeyText (text : String) : List Instr := pseudoKey (utf8Bytes text)

/-- `ENCS b0, ..., b(n-1)` (R49, R68). -/
def pseudoEncs (ps : List Byte) : List Instr := ps.map .enc

/-- `DECS c0, ..., c(n-1)` (R49, R68). -/
def pseudoDecs (cs : List Byte) : List Instr := cs.map .dec

/-- `LDRS r0, ..., r11`: `LDR 0, r0` to `LDR 11, r11` (R49). -/
def pseudoLdrs (r : Vector Byte 12) : List Instr :=
  r.toList.zipIdx.map fun p => .ldr (BitVec.ofNat 4 p.2) p.1

/-- `LDCW v`: low byte, then high byte (R49). -/
def pseudoLdcw (v : BitVec 16) : List Instr := [.ldc 0 (slice 0 8 v), .ldc 1 (slice 8 8 v)]

/-- `RDH 0` to `RDH 11` (R81). -/
def readHeader : List Instr := (List.range 12).map fun i => .rdh (BitVec.ofNat 4 i)

/-- `MKHDR r0..r11, v` (R49, R81). -/
def pseudoMkhdr (r : Vector Byte 12) (v : BitVec 16) : List Instr :=
  pseudoLdrs r ++ pseudoLdcw v ++ [.hdr] ++ readHeader

/-- `RDKW r`: the four bytes of K[r], low byte first (R49). -/
def pseudoRdkw (r : Fin 3) : List Instr :=
  (List.range 4).map fun j => .rdk (BitVec.ofNat 4 (4 * r.val + j))

/-- `WRKW r, v`: the four bytes of K[r], low byte first (R49). -/
def pseudoWrkw (r : Fin 3) (v : Word) : List Instr :=
  (List.range 4).map fun j => .wrk (BitVec.ofNat 4 (4 * r.val + j)) (slice (8 * j) 8 v)

end Sys2Proof.Machine
end

