-- ==== Sys2Proof/Safety.lean ====
section
/-!
DEFINITION. The terms in which claims are made: when a run has gone wrong, the invariant every step
keeps, when two states cannot be told apart at the ports, which commands write K, and the premise
on the base key (R104).
-/

namespace Sys2Proof.Machine

/-- A response that reports no fault; "a run in which any response has ERR = 1 has gone wrong"
(R109). -/
def cleanResponse (w : RspWord) : Bool := !w.getLsbD 12

/-- No response of the run reported a fault (R91, R109). -/
def CleanRun (ws : List RspWord) : Prop := ∀ w ∈ ws, cleanResponse w = true

/-- The two shapes of R43: `0x00dd`, or `0x1c00` with `c` from 1 to 7. -/
def legalResponse (w : RspWord) : Bool :=
  slice 13 3 w == 0 &&
    (if w.getLsbD 12 then slice 0 8 w == 0 && decide (1 ≤ (slice 8 4 w).toNat)
        && decide ((slice 8 4 w).toNat ≤ 7)
      else slice 8 4 w == 0)

/-- The waiting response is a legal one and carries the fault record as it stands (R43). -/
def waitingResponseOk (s : State) : Bool :=
  match s.rsp with
  | none => true
  | some w => legalResponse w && w.getLsbD 12 == s.err && slice 8 4 w == s.ecode

/-- What every step keeps. -/
structure State.Inv (s : State) : Prop where
  /-- ECODE is 0 exactly while no fault is recorded (R22). -/
  faultRecorded : s.err = true ↔ s.ecode ≠ 0
  /-- Codes 8 to 15 are never produced (R22, R88). -/
  codeLegal : s.ecode.toNat ≤ 7
  /-- BV = 1 implies KV = 1 (95_test_vectors.md V9). -/
  baseNeedsKey : s.bv = true → s.kv = true
  /-- HV = 1 implies BV = 1 (95_test_vectors.md V9). -/
  headerNeedsBase : s.hv = true → s.bv = true
  /-- The response port (R43). -/
  waitingOk : waitingResponseOk s = true
  /-- Every response the host has received is a legal one (R43). -/
  deliveredOk : ∀ w ∈ s.delivered, legalResponse w = true

/-- Two states that differ at most in registers that hold no value, that is whose valid flag is 0
(R26, 93_implementation_defined.md U1). -/
structure Agree (s t : State) : Prop where
  kv : s.kv = t.kv
  bv : s.bv = t.bv
  hv : s.hv = t.hv
  rv : s.rv = t.rv
  cv : s.cv = t.cv
  err : s.err = t.err
  ecode : s.ecode = t.ecode
  rsp : s.rsp = t.rsp
  inputs : s.inputs = t.inputs
  delivered : s.delivered = t.delivered
  k : s.kv = true → s.k = t.k
  b : s.bv = true → s.b = t.b
  h : s.hv = true → s.h = t.h
  r : ∀ i : Fin 12, s.rv.getLsbD i.val = true → s.r[i] = t.r[i]
  chkLow : s.cv.getLsbD 0 = true → slice 0 8 s.chk = slice 0 8 t.chk
  chkHigh : s.cv.getLsbD 1 = true → slice 8 8 s.chk = slice 8 8 t.chk

/-- The commands that write K (R13, R100). -/
def writesK : Instr → Bool
  | .nop => false
  | .seed => true
  | .adv _ => true
  | .ksb => false
  | .enc _ => true
  | .dec _ => true
  | .save => false
  | .rest => true
  | .ldr _ _ => false
  | .ldc _ _ => false
  | .hdr => true
  | .rdh _ => false
  | .rdk _ => false
  | .wrk _ _ => true
  | .rds _ => false

/-- The commands that return a byte (R43). -/
def returnsByte : Instr → Bool
  | .nop => false
  | .seed => false
  | .adv _ => false
  | .ksb => true
  | .enc _ => true
  | .dec _ => true
  | .save => false
  | .rest => false
  | .ldr _ _ => false
  | .ldc _ _ => false
  | .hdr => false
  | .rdh _ => true
  | .rdk _ => true
  | .wrk _ _ => false
  | .rds _ => true

/-- The premise of R104: the base key is the state right after the absorption of `pw`. -/
def BaseKeyOf (pw : List Byte) (s : State) : Prop := s.bv = true ∧ s.b = initState pw

/-- The response word of a command that succeeded with data `d`: `0x00dd` (R43). -/
def okResponse (d : Byte) : RspWord := d.setWidth 16

/-- `s` with nothing changed but the response, which reports success with data `d` (R9, R43). -/
def answered (d : Byte) (s : State) : State := { s with rsp := some (okResponse d) }

/-- `s` after a fault of code `c`: the fault record and the response `0x1000 OR (c << 8)`, every
other piece of state as it was (R90). -/
def faultedAs (c : BitVec 4) (s : State) : State :=
  { s with err := true, ecode := c, rsp := some (0x1000 ||| (c.setWidth 16 <<< 8)) }

/-- Whether the cause of fault code `c` in the table of R88 holds for word `w` in state `s`. -/
def faultApplies (c : Nat) (w : CmdWord) (s : State) : Bool :=
  let op := (opField w).toNat
  let idx := (idxField w).toNat
  let imm := (immField w).toNat
  match c with
  | 1 => op == 15
  | 2 => ([0, 1, 3, 6, 7, 10].contains op && (idx != 0 || imm != 0))
      || ([2, 4, 5].contains op && idx != 0)
      || ([11, 12, 14].contains op && imm != 0)
  | 3 => ([8, 11, 12, 13].contains op && decide (11 < idx))
      || (op == 9 && decide (1 < idx)) || (op == 14 && decide (2 < idx))
  | 4 => [2, 3, 4, 5, 6, 12, 13].contains op && !s.kv
  | 5 => [7, 10].contains op && !s.bv
  | 6 => op == 10 && (s.rv != 0xFFF || s.cv != 0b11)
  | 7 => op == 11 && !s.hv
  | _ => false

/-- The lowest fault code whose cause holds (R89). -/
def lowestFault (w : CmdWord) (s : State) : Option Nat :=
  [1, 2, 3, 4, 5, 6, 7].find? fun c => faultApplies c w s

/-- A row of the opcode map of R44: match, mask, and the highest legal `idx` (R42). -/
structure OpcodeRow where
  pattern : CmdWord
  mask : CmdWord
  top : Nat
deriving DecidableEq, Repr

/-- The fifteen rows of R44 with the index ranges of R42, in opcode order. -/
def opcodeRows : List OpcodeRow := [
  ⟨0x0000, 0xFFFF, 0⟩, ⟨0x1000, 0xFFFF, 0⟩, ⟨0x2000, 0xFF00, 0⟩, ⟨0x3000, 0xFFFF, 0⟩,
  ⟨0x4000, 0xFF00, 0⟩, ⟨0x5000, 0xFF00, 0⟩, ⟨0x6000, 0xFFFF, 0⟩, ⟨0x7000, 0xFFFF, 0⟩,
  ⟨0x8000, 0xF000, 11⟩, ⟨0x9000, 0xF000, 1⟩, ⟨0xA000, 0xFFFF, 0⟩, ⟨0xB000, 0xF0FF, 11⟩,
  ⟨0xC000, 0xF0FF, 11⟩, ⟨0xD000, 0xF000, 11⟩, ⟨0xE000, 0xF0FF, 2⟩]

/-- How many of the 4096 words with opcode `op` the decoder gives an answer with `p` (R46): every
word is the word of its three fields (R41). -/
def countWordsOf (p : Except FaultCode Instr → Bool) (op : Nat) : Nat :=
  ((List.range 16).map fun idx => (List.range 256).countP fun imm =>
    p (decode (packWord (BitVec.ofNat 4 op) (BitVec.ofNat 4 idx) (BitVec.ofNat 8 imm)))).sum

/-- How many of the 65536 words the decoder gives an answer with `p` (R46). -/
def countWords (p : Except FaultCode Instr → Bool) : Nat :=
  ((List.range 16).map (countWordsOf p)).sum

/-- A commands-only host program that leaves the base key alone: no SAVE (R104). -/
def noSave (is : List Instr) : Prop := ∀ i ∈ is, i ≠ .save

end Sys2Proof.Machine
end

