-- ==== Sys2Proof/Certificates/Slice0/Obligations.lean ====
section
/-!
DEFINITION. The statements for the provers, each formalising rules of spec/ (OBLIGATIONS.json says
which). Nothing is proved here.
-/

open Sys2Proof Sys2Proof.Machine

/-! ## Reset, the ports and the step -/

/-- R26, R98: after reset, and after any port cycle with `rst` = 1 in any state, every valid flag is
0, no fault is recorded and no response is presented. That the data registers
then hold the contents of log entry 1 and that the host's own lists stay (log entry 5) is the
model's choice. -/
def Obligations.ResetClearsFlagsAndFaultRecord : Prop :=
  (State.reset.kv = false ∧ State.reset.bv = false ∧ State.reset.hv = false ∧
    State.reset.rv = 0x000 ∧ State.reset.cv = 0b00 ∧ State.reset.err = false ∧
    State.reset.ecode = 0x0 ∧ rspValid State.reset = false) ∧
  ∀ (s : State) (c : HostCycle) (rest : List HostCycle),
    s.inputs = c :: rest → c.rst = true →
    step s = .next { State.reset with inputs := rest, delivered := s.delivered }

/-- The reset state meets the invariant that every step keeps. -/
def Obligations.ResetStateMeetsInvariant : Prop := State.reset.Inv

/-- 95_test_vectors.md V7: words written out from the encoding tables and what they decode as. -/
def Obligations.SampleWordsDecode : Prop :=
  decode 0x0000 = .ok .nop ∧ decode 0x1000 = .ok .seed ∧ decode 0x2073 = .ok (.adv 0x73) ∧
  decode 0x3000 = .ok .ksb ∧ decode 0x4048 = .ok (.enc 0x48) ∧ decode 0x50D2 = .ok (.dec 0xD2) ∧
  decode 0x6000 = .ok .save ∧ decode 0x7000 = .ok .rest ∧
  decode 0x8B1B = .ok (.ldr 11 0x1B) ∧ decode 0x9164 = .ok (.ldc 1 0x64) ∧
  decode 0xA000 = .ok .hdr ∧ decode 0xBB00 = .ok (.rdh 11) ∧ decode 0xC400 = .ok (.rdk 4) ∧
  decode 0xD7FF = .ok (.wrk 7 0xFF) ∧ decode 0xE200 = .ok (.rds 2) ∧
  decode 0x0001 = .error .reservedField ∧ decode 0x2173 = .error .reservedField ∧
  decode 0x8C00 = .error .indexRange ∧ decode 0x9200 = .error .indexRange ∧
  decode 0xBC00 = .error .indexRange ∧ decode 0xBC55 = .error .reservedField ∧
  decode 0xE300 = .error .indexRange ∧ decode 0xF000 = .error .reservedOpcode

/-- R40, R45 line 6, with the port cycles of log entries 2 and 3: in a cycle in which a word is
accepted and spells the command `i`, the step is `exec i` on the state with that cycle gone. -/
def Obligations.StepRunsDecodedCommand : Prop :=
  ∀ (s : State) (c : HostCycle) (rest : List HostCycle) (i : Instr),
    s.inputs = c :: rest → c.rst = false → c.cmdValid = true → s.rsp = none →
    decode c.cmd = .ok i →
    step s = exec i { s with inputs := rest }

/-- R45 lines 1 to 4, with the port cycles of log entries 2 and 3: in a cycle in which a word is
accepted that spells no command, the step records the decode fault, or, in the fault state, answers
the recorded code. -/
def Obligations.StepFaultsOnIllegalWord : Prop :=
  ∀ (s : State) (c : HostCycle) (rest : List HostCycle) (f : FaultCode),
    s.inputs = c :: rest → c.rst = false → c.cmdValid = true → s.rsp = none →
    decode c.cmd = .error f →
    (s.err = false → step s = .next (faultedAs (faultBits f) { s with inputs := rest })) ∧
    (s.err = true → step s = .next
      { s with inputs := rest, rsp := some (0x1000 ||| (s.ecode.setWidth 16 <<< 8)) })

/-- R40, R93, R95, with the port cycles of log entries 2, 3 and 9: the cycles in which no command is
accepted. A waiting response is delivered when the host takes it; while it waits no word is
accepted; with nothing presented nothing happens; a host that drives nothing more leaves the block
idle. -/
def Obligations.PortCyclesWithoutCommand : Prop :=
  (∀ s : State, s.inputs = [] → step s = .next s) ∧
  ∀ (s : State) (c : HostCycle) (rest : List HostCycle),
    s.inputs = c :: rest → c.rst = false →
    (∀ w, s.rsp = some w → c.rspReady = true →
      step s = .next { s with inputs := rest, rsp := none, delivered := s.delivered ++ [w] }) ∧
    (∀ w, s.rsp = some w → c.rspReady = false → step s = .next { s with inputs := rest }) ∧
    (s.rsp = none → c.cmdValid = false → step s = .next { s with inputs := rest })

/-! ## The commands, one statement each: encoding, effect, faults, worked example -/

/-- R82. -/
def Obligations.NopChangesNothing : Prop :=
  encode .nop = 0x0000 ∧ decode 0x0000 = .ok .nop ∧
  ∀ s : State,
    (s.err = false → exec .nop s = .next (answered 0 s)) ∧
    (s.err = true → exec .nop s =
      .next { s with rsp := some (0x1000 ||| (s.ecode.setWidth 16 <<< 8)) }) ∧
    (s.err = false → ∀ w : CmdWord, 0x0001 ≤ w.toNat → w.toNat ≤ 0x0FFF →
      accept w s = .next (faultedAs 2 s))

/-- R62. -/
def Obligations.SeedLoadsSeedConstants : Prop :=
  encode .seed = 0x1000 ∧ decode 0x1000 = .ok .seed ∧ initState [] = seedState ∧
  ∀ s : State, s.err = false →
    exec .seed s = .next
      { s with k := ⟨0x12345678, 0x23456789, 0x34567890⟩, kv := true, rsp := some 0x0000 } ∧
    ∀ (idx : BitVec 4) (imm : Byte), idx ≠ 0 ∨ imm ≠ 0 →
      accept (packWord 0x1 idx imm) s = .next (faultedAs 2 s)

/-- R63. -/
def Obligations.AdvAdvancesKey : Prop :=
  ∀ (s : State) (imm : Byte), s.err = false →
    encode (.adv imm) = 0x2000 ||| imm.setWidth 16 ∧
    decode (0x2000 ||| imm.setWidth 16) = .ok (.adv imm) ∧
    (s.kv = true →
      exec (.adv imm) s = .next { s with k := advance s.k imm, rsp := some 0x0000 }) ∧
    (s.kv = false → exec (.adv imm) s = .next (faultedAs 4 s)) ∧
    (∀ idx : BitVec 4, idx ≠ 0 → accept (packWord 0x2 idx imm) s = .next (faultedAs 2 s)) ∧
    (s.kv = true → s.k = ⟨0x12345678, 0x23456789, 0x34567890⟩ →
      accept 0x2073 s = .next
        { s with k := ⟨0x97C0EDDE, 0xF5682604, 0x3DECC3AF⟩, rsp := some 0x0000 })

/-- R64. -/
def Obligations.KsbAnswersKeystreamByte : Prop :=
  encode .ksb = 0x3000 ∧ decode 0x3000 = .ok .ksb ∧
  ∀ s : State, s.err = false →
    (s.kv = true → exec .ksb s = .next (answered (keystreamByte s.k) s) ∧
      exec .ksb (deliver (answered (keystreamByte s.k) s)) =
        .next (answered (keystreamByte s.k) (deliver (answered (keystreamByte s.k) s)))) ∧
    (s.kv = false → exec .ksb s = .next (faultedAs 4 s)) ∧
    (∀ (idx : BitVec 4) (imm : Byte), idx ≠ 0 ∨ imm ≠ 0 →
      accept (packWord 0x3 idx imm) s = .next (faultedAs 2 s)) ∧
    (s.kv = true → s.k = seedState → exec .ksb s = .next { s with rsp := some 0x00AB }) ∧
    (s.kv = true → s.k = initState [0x73, 0x33, 0x63, 0x72, 0x65, 0x74] →
      exec .ksb s = .next { s with rsp := some 0x009A })

/-- R65. -/
def Obligations.EncEncryptsAndAdvances : Prop :=
  ∀ (s : State) (imm : Byte), s.err = false →
    encode (.enc imm) = 0x4000 ||| imm.setWidth 16 ∧
    decode (0x4000 ||| imm.setWidth 16) = .ok (.enc imm) ∧
    (s.kv = true → exec (.enc imm) s = .next
      { s with k := advance s.k imm, rsp := some (okResponse (imm ^^^ keystreamByte s.k)) }) ∧
    (s.kv = false → exec (.enc imm) s = .next (faultedAs 4 s)) ∧
    (∀ idx : BitVec 4, idx ≠ 0 → accept (packWord 0x4 idx imm) s = .next (faultedAs 2 s)) ∧
    (s.kv = true → s.rsp = none → runCommands [.ksb, .adv imm] s = .next
      { s with
        k := advance s.k imm
        delivered := s.delivered ++ [okResponse (keystreamByte s.k), okResponse 0] }) ∧
    (s.kv = true → s.k = initState [0x73, 0x33, 0x63, 0x72, 0x65, 0x74] →
      accept 0x4048 s = .next { s with k := advance s.k 0x48, rsp := some 0x00D2 })

/-- R66. -/
def Obligations.DecDecryptsAndAdvancesByPlaintext : Prop :=
  ∀ (s : State) (imm : Byte), s.err = false →
    encode (.dec imm) = 0x5000 ||| imm.setWidth 16 ∧
    decode (0x5000 ||| imm.setWidth 16) = .ok (.dec imm) ∧
    (s.kv = true → exec (.dec imm) s = .next
      { s with
        k := advance s.k (imm ^^^ keystreamByte s.k)
        rsp := some (okResponse (imm ^^^ keystreamByte s.k)) }) ∧
    (s.kv = false → exec (.dec imm) s = .next (faultedAs 4 s)) ∧
    (∀ idx : BitVec 4, idx ≠ 0 → accept (packWord 0x5 idx imm) s = .next (faultedAs 2 s)) ∧
    (s.kv = true → s.k = initState [0x73, 0x33, 0x63, 0x72, 0x65, 0x74] →
      accept 0x50D2 s = .next { s with k := advance s.k 0x48, rsp := some 0x0048 })

/-- R74. -/
def Obligations.SaveCopiesKeyToBase : Prop :=
  encode .save = 0x6000 ∧ decode 0x6000 = .ok .save ∧
  ∀ s : State, s.err = false →
    (s.kv = true → exec .save s = .next { s with b := s.k, bv := true, rsp := some 0x0000 }) ∧
    (s.kv = false → exec .save s = .next (faultedAs 4 s)) ∧
    (∀ (idx : BitVec 4) (imm : Byte), idx ≠ 0 ∨ imm ≠ 0 →
      accept (packWord 0x6 idx imm) s = .next (faultedAs 2 s)) ∧
    (s.rsp = none → runCommands (pseudoKey [0x73, 0x33, 0x63, 0x72, 0x65, 0x74]) s = .next
      { s with
        k := ⟨0x6AFADE02, 0x9FEAA373, 0x21F86344⟩
        kv := true
        b := ⟨0x6AFADE02, 0x9FEAA373, 0x21F86344⟩
        bv := true
        delivered := s.delivered ++ List.replicate 8 0x0000 })

/-- R75. -/
def Obligations.RestCopiesBaseToKey : Prop :=
  encode .rest = 0x7000 ∧ decode 0x7000 = .ok .rest ∧
  ∀ s : State, s.err = false →
    (s.bv = true → exec .rest s = .next { s with k := s.b, kv := true, rsp := some 0x0000 }) ∧
    (s.bv = false → exec .rest s = .next (faultedAs 5 s)) ∧
    (∀ (idx : BitVec 4) (imm : Byte), idx ≠ 0 ∨ imm ≠ 0 →
      accept (packWord 0x7 idx imm) s = .next (faultedAs 2 s)) ∧
    (s.rsp = none → ∀ ps : List Byte,
      ∃ t, runCommands (pseudoKey [0x73, 0x33, 0x63, 0x72, 0x65, 0x74] ++ pseudoEncs ps ++ [.rest]) s
        = .next t ∧ t.k = ⟨0x6AFADE02, 0x9FEAA373, 0x21F86344⟩ ∧ t.err = false)

/-- R76. -/
def Obligations.LdrLoadsRandomByte : Prop :=
  ∀ (s : State) (idx : BitVec 4) (imm : Byte), s.err = false →
    encode (.ldr idx imm) = 0x8000 ||| (idx.setWidth 16 <<< 8) ||| imm.setWidth 16 ∧
    (idx.toNat ≤ 11 → decode (encode (.ldr idx imm)) = .ok (.ldr idx imm) ∧
      ∃ t, exec (.ldr idx imm) s = .next t ∧
        (∀ j : Fin 12, t.r[j] = if j.val = idx.toNat then imm else s.r[j]) ∧
        (∀ j : Fin 12, t.rv.getLsbD j.val = (decide (j.val = idx.toNat) || s.rv.getLsbD j.val)) ∧
        t = { s with r := t.r, rv := t.rv, rsp := some 0x0000 }) ∧
    (11 < idx.toNat → exec (.ldr idx imm) s = .next (faultedAs 3 s) ∧
      accept (packWord 0x8 idx imm) s = .next (faultedAs 3 s)) ∧
    (∃ t, accept 0x8A1A s = .next t ∧ t.r[10] = 0x1A ∧ t.rv.getLsbD 10 = true ∧
      t.rsp = some 0x0000)

/-- R77. -/
def Obligations.LdcLoadsCheckByte : Prop :=
  ∀ (s : State) (idx : BitVec 4) (imm : Byte), s.err = false →
    encode (.ldc idx imm) = 0x9000 ||| (idx.setWidth 16 <<< 8) ||| imm.setWidth 16 ∧
    (idx.toNat ≤ 1 → decode (encode (.ldc idx imm)) = .ok (.ldc idx imm)) ∧
    (idx.toNat = 0 → ∃ t, exec (.ldc idx imm) s = .next t ∧
      t.chk.toNat = s.chk.toNat / 256 * 256 + imm.toNat ∧
      t.cv.getLsbD 0 = true ∧ t.cv.getLsbD 1 = s.cv.getLsbD 1 ∧
      t = { s with chk := t.chk, cv := t.cv, rsp := some 0x0000 }) ∧
    (idx.toNat = 1 → ∃ t, exec (.ldc idx imm) s = .next t ∧
      t.chk.toNat = imm.toNat * 256 + s.chk.toNat % 256 ∧
      t.cv.getLsbD 0 = s.cv.getLsbD 0 ∧ t.cv.getLsbD 1 = true ∧
      t = { s with chk := t.chk, cv := t.cv, rsp := some 0x0000 }) ∧
    (1 < idx.toNat → exec (.ldc idx imm) s = .next (faultedAs 3 s) ∧
      accept (packWord 0x9 idx imm) s = .next (faultedAs 3 s)) ∧
    (s.rsp = none → runWords [0x905C, 0x9164] s = .next
      { s with chk := 0x645C, cv := 0b11, delivered := s.delivered ++ [0x0000, 0x0000] })

/-- R78. What R and CHK hold afterwards, when they hold no value, is left open. -/
def Obligations.HdrBuildsHeader : Prop :=
  encode .hdr = 0xA000 ∧ decode 0xA000 = .ok .hdr ∧
  ∀ s : State, s.err = false →
    (s.bv = true → s.rv = 0xFFF → s.cv = 0b11 → ∃ t, exec .hdr s = .next t ∧
      t = { s with
        h := (buildHeader s.b s.r s.chk).2
        hv := true
        k := (buildHeader s.b s.r s.chk).1
        kv := true
        rv := 0x000
        cv := 0b00
        r := t.r
        chk := t.chk
        rsp := some 0x0000 }) ∧
    (s.bv = false → exec .hdr s = .next (faultedAs 5 s)) ∧
    (s.bv = true → s.rv ≠ 0xFFF ∨ s.cv ≠ 0b11 → exec .hdr s = .next (faultedAs 6 s)) ∧
    (∀ (idx : BitVec 4) (imm : Byte), idx ≠ 0 ∨ imm ≠ 0 →
      accept (packWord 0xA idx imm) s = .next (faultedAs 2 s)) ∧
    (s.bv = true → s.rv = 0xFFF → s.cv = 0b11 →
      s.b = initState [0x73, 0x33, 0x63, 0x72, 0x65, 0x74] →
      s.r = #v[0x10, 0x11, 0x12, 0x13, 0x14, 0x15, 0x16, 0x17, 0x18, 0x19, 0x1A, 0x1B] →
      s.chk = 0x645C →
      (encryptBytes s.b s.r.toList).2 =
        [0x8A, 0x1E, 0xE4, 0x6D, 0x40, 0x11, 0x9F, 0xAF, 0x2E, 0xC2, 0xE4, 0x26] ∧
      headerBuffer s.b s.r s.chk =
        #v[0x8A, 0x1E, 0xE4, 0x6D, 0x40, 0x11, 0x9F, 0xAF, 0x2E, 0xC2, 0x5C, 0x64] ∧
      ∃ t, accept 0xA000 s = .next t ∧
        t.h = #v[0x10, 0xA5, 0x30, 0x27, 0x56, 0x06, 0x9A, 0xCA, 0x99, 0x16, 0x3A, 0x5A] ∧
        t.k = ⟨0xE2003D80, 0xD145808A, 0xD93F2091⟩)

/-- R79. -/
def Obligations.RdhAnswersHeaderByte : Prop :=
  ∀ (s : State) (idx : BitVec 4), s.err = false →
    encode (.rdh idx) = 0xB000 ||| (idx.setWidth 16 <<< 8) ∧
    (idx.toNat ≤ 11 → decode (encode (.rdh idx)) = .ok (.rdh idx)) ∧
    (s.hv = true → ∀ i : Fin 12, idx.toNat = i.val →
      exec (.rdh idx) s = .next (answered s.h[i] s)) ∧
    (idx.toNat ≤ 11 → s.hv = false → exec (.rdh idx) s = .next (faultedAs 7 s)) ∧
    (11 < idx.toNat → exec (.rdh idx) s = .next (faultedAs 3 s) ∧
      accept (packWord 0xB idx 0) s = .next (faultedAs 3 s)) ∧
    (∀ imm : Byte, imm ≠ 0 → accept (packWord 0xB idx imm) s = .next (faultedAs 2 s)) ∧
    (s.hv = true →
      s.h = #v[0x10, 0xA5, 0x30, 0x27, 0x56, 0x06, 0x9A, 0xCA, 0x99, 0x16, 0x3A, 0x5A] →
      accept 0xB000 s = .next { s with rsp := some 0x0010 } ∧
      accept 0xBB00 s = .next { s with rsp := some 0x005A })

/-- R83. -/
def Obligations.RdkAnswersKeyByte : Prop :=
  ∀ (s : State) (idx : BitVec 4), s.err = false →
    encode (.rdk idx) = 0xC000 ||| (idx.setWidth 16 <<< 8) ∧
    (idx.toNat ≤ 11 → decode (encode (.rdk idx)) = .ok (.rdk idx)) ∧
    (idx.toNat ≤ 11 → s.kv = true → ∃ d : Byte, exec (.rdk idx) s = .next (answered d s) ∧
      d.toNat = (if idx.toNat / 4 = 0 then s.k.k0.toNat
        else if idx.toNat / 4 = 1 then s.k.k1.toNat else s.k.k2.toNat)
        / 2 ^ (8 * (idx.toNat % 4)) % 256) ∧
    (idx.toNat ≤ 11 → s.kv = false → exec (.rdk idx) s = .next (faultedAs 4 s)) ∧
    (11 < idx.toNat → exec (.rdk idx) s = .next (faultedAs 3 s) ∧
      accept (packWord 0xC idx 0) s = .next (faultedAs 3 s)) ∧
    (∀ imm : Byte, imm ≠ 0 → accept (packWord 0xC idx imm) s = .next (faultedAs 2 s)) ∧
    (s.kv = true → s.k = ⟨0x6AFADE02, 0x9FEAA373, 0x21F86344⟩ →
      exec (.rdk 0) s = .next { s with rsp := some 0x0002 } ∧
      exec (.rdk 3) s = .next { s with rsp := some 0x006A } ∧
      exec (.rdk 4) s = .next { s with rsp := some 0x0073 } ∧
      exec (.rdk 11) s = .next { s with rsp := some 0x0021 })

/-- R84. -/
def Obligations.WrkWritesKeyByte : Prop :=
  ∀ (s : State) (idx : BitVec 4) (imm : Byte), s.err = false →
    encode (.wrk idx imm) = 0xD000 ||| (idx.setWidth 16 <<< 8) ||| imm.setWidth 16 ∧
    (idx.toNat ≤ 11 → decode (encode (.wrk idx imm)) = .ok (.wrk idx imm)) ∧
    (s.kv = true → ∀ i : Fin 12, idx.toNat = i.val → ∃ t, exec (.wrk idx imm) s = .next t ∧
      (∀ j : Fin 12, readKeyByte t.k j = if j = i then imm else readKeyByte s.k j) ∧
      t = { s with k := t.k, rsp := some 0x0000 }) ∧
    (idx.toNat ≤ 11 → s.kv = false → exec (.wrk idx imm) s = .next (faultedAs 4 s)) ∧
    (11 < idx.toNat → exec (.wrk idx imm) s = .next (faultedAs 3 s) ∧
      accept (packWord 0xD idx imm) s = .next (faultedAs 3 s)) ∧
    (s.kv = true → s.k = seedState → s.rsp = none →
      runWords [0xD4FF, 0xD5FF, 0xD6FF, 0xD7FF] s = .next
        { s with
          k := ⟨0x12345678, 0xFFFFFFFF, 0x34567890⟩
          delivered := s.delivered ++ List.replicate 4 0x0000 } ∧
      advance ⟨0x12345678, 0xFFFFFFFF, 0x34567890⟩ 0x01 = ⟨0x29CBFDCE, 0x6ED1B802, 0x5A318963⟩)

/-- R85. -/
def Obligations.RdsAnswersStatusByte : Prop :=
  ∀ (s : State) (idx : BitVec 4), s.err = false →
    encode (.rds idx) = 0xE000 ||| (idx.setWidth 16 <<< 8) ∧
    (idx.toNat ≤ 2 → decode (encode (.rds idx)) = .ok (.rds idx)) ∧
    (idx.toNat = 0 → ∃ d : Byte, exec (.rds idx) s = .next (answered d s) ∧
      d.getLsbD 0 = s.kv ∧ d.getLsbD 1 = s.bv ∧ d.getLsbD 2 = s.hv ∧
      d.getLsbD 3 = s.cv.getLsbD 0 ∧ d.getLsbD 4 = s.cv.getLsbD 1 ∧
      (d.getLsbD 5 = true ↔ s.rv = 0xFFF) ∧ d.getLsbD 6 = false ∧ d.getLsbD 7 = false) ∧
    (idx.toNat = 1 → ∃ d : Byte, exec (.rds idx) s = .next (answered d s) ∧
      d.toNat = s.rv.toNat % 256) ∧
    (idx.toNat = 2 → ∃ d : Byte, exec (.rds idx) s = .next (answered d s) ∧
      d.toNat = s.rv.toNat / 256) ∧
    (2 < idx.toNat → exec (.rds idx) s = .next (faultedAs 3 s) ∧
      accept (packWord 0xE idx 0) s = .next (faultedAs 3 s)) ∧
    (∀ imm : Byte, imm ≠ 0 → accept (packWord 0xE idx imm) s = .next (faultedAs 2 s)) ∧
    accept 0xE000 State.reset = .next { State.reset with rsp := some 0x0000 } ∧
    (s.kv = true → s.bv = true → s.hv = false → s.rv = 0 → s.cv = 0 →
      accept 0xE000 s = .next { s with rsp := some 0x0003 }) ∧
    (s.kv = true → s.bv = true → s.hv = false → s.rv = 0xFFF → s.cv = 0b11 →
      accept 0xE000 s = .next { s with rsp := some 0x003B }) ∧
    (s.kv = true → s.bv = true → s.hv = true → s.rv = 0 → s.cv = 0 →
      accept 0xE000 s = .next { s with rsp := some 0x0007 })

/-- R86. -/
def Obligations.ReservedOpcodeFaults : Prop :=
  (∀ (s : State) (idx : BitVec 4) (imm : Byte), s.err = false →
    accept (packWord 0xF idx imm) s = .next (faultedAs 1 s)) ∧
  ∃ t, accept 0xF000 State.reset = .next t ∧ t.rsp = some 0x1100 ∧ t.err = true

/-! ## Encoding -/

/-- R41, R42, R44: decoding the word of any legal command gives that command back. -/
def Obligations.DecodeOfEncode : Prop :=
  ∀ i : Instr, i.wellFormed = true → decode (encode i) = .ok i

/-- R41, R44: a word has one meaning: what it decodes as is a legal command whose word it is. -/
def Obligations.EncodeOfDecode : Prop :=
  ∀ (w : CmdWord) (i : Instr), decode w = .ok i → i.wellFormed = true ∧ encode i = w

/-- R44: a word spells a command exactly when it matches a row's match and mask and its `idx` is in
the row's range; the rows are disjoint. -/
def Obligations.LegalWordsMatchOpcodeTable : Prop :=
  (∀ w : CmdWord, (∃ i, decode w = .ok i) ↔
    ∃ row ∈ opcodeRows, w &&& row.mask = row.pattern ∧
      ((idxField w).toNat ≤ row.top)) ∧
  (∀ w : CmdWord, ∀ a ∈ opcodeRows, ∀ b ∈ opcodeRows,
    w &&& a.mask = a.pattern → w &&& b.mask = b.pattern → a = b)

/-- R46 and 95_test_vectors.md V7: of the 65536 words 7457 are legal, 4096 give fault 1, 48330 fault
2 and 5653 fault 3. -/
def Obligations.WordClassificationCounts : Prop :=
  countWords (fun d => match d with | .ok _ => true | .error _ => false) = 7457 ∧
  countWords (fun d => d matches .error .reservedOpcode) = 4096 ∧
  countWords (fun d => d matches .error .reservedField) = 48330 ∧
  countWords (fun d => d matches .error .indexRange) = 5653

/-- R48: a line of the text of a legal command is read back as that command's word. -/
def Obligations.AssemblerReadsWhatItWrites : Prop :=
  (∀ i : Instr, i.wellFormed = true → assemble [assemblyText i] = some [encode i]) ∧
  (∀ w : CmdWord, assemble [rawText w] = some [w])

/-! ## Faults -/

/-- R88, R89: a word met outside the fault state faults exactly when the cause of some code in the
table of R88 holds, then with the lowest such code, and otherwise records no fault. -/
def Obligations.LowestApplicableFaultIsReported : Prop :=
  ∀ (s : State) (w : CmdWord), s.err = false →
    (∀ c, lowestFault w s = some c → accept w s = .next (faultedAs (BitVec.ofNat 4 c) s)) ∧
    (lowestFault w s = none → ∃ t, accept w s = .next t ∧ t.err = false ∧ t.ecode = s.ecode) ∧
    (s.hv = false → lowestFault 0xBC05 s = some 2 ∧ lowestFault 0xBC00 s = some 3 ∧
      lowestFault 0xB000 s = some 7) ∧
    (s.bv = false → lowestFault 0xA000 s = some 5)

/-- R90: a fault changes the fault record and the response and nothing else, and its code is one of
1 to 7. -/
def Obligations.FaultChangesOnlyTheRecord : Prop :=
  (∀ (c : FaultCode) (s : State), raiseFault c s = faultedAs (faultBits c) s) ∧
  ∀ (s t : State) (w : CmdWord), s.err = false → accept w s = .next t → t.err = true →
    ∃ c : BitVec 4, 1 ≤ c.toNat ∧ c.toNat ≤ 7 ∧ t = faultedAs c s

/-- R91: while ERR = 1 every word is answered with the recorded code and changes nothing, so no list
of words leaves the fault state. -/
def Obligations.FaultedBlockExecutesNothing : Prop :=
  ∀ s : State, s.err = true →
    (∀ w : CmdWord, accept w s = .next
      { s with rsp := some (0x1000 ||| (s.ecode.setWidth 16 <<< 8)) }) ∧
    (∀ i : Instr, exec i s = .next
      { s with rsp := some (0x1000 ||| (s.ecode.setWidth 16 <<< 8)) }) ∧
    (s.rsp = none → ∀ ws : List CmdWord, runWords ws s = .next
      { s with
        delivered := s.delivered ++
          List.replicate ws.length (0x1000 ||| (s.ecode.setWidth 16 <<< 8)) })

/-- R14, R16, R19, R22, R98: no command clears KV, BV, HV or ERR, and only HDR clears a bit of RV or
CV. -/
def Obligations.OnlyResetClearsValidFlags : Prop :=
  ∀ (s t : State) (w : CmdWord), accept w s = .next t →
    (s.kv = true → t.kv = true) ∧ (s.bv = true → t.bv = true) ∧ (s.hv = true → t.hv = true) ∧
    (s.err = true → t.err = true ∧ t.ecode = s.ecode) ∧
    (decode w ≠ .ok .hdr →
      (∀ j, s.rv.getLsbD j = true → t.rv.getLsbD j = true) ∧
      (∀ j, s.cv.getLsbD j = true → t.cv.getLsbD j = true))

/-- 10_state.md section 1, R13, R15, R17 to R19: the frame. Each register and flag is changed only
by the commands the table names as its writers; no command touches the host's side of the ports. -/
def Obligations.RegistersChangeOnlyByTheirWriters : Prop :=
  ∀ (i : Instr) (s t : State), exec i s = .next t →
    (writesK i = false → t.k = s.k) ∧
    (i ≠ .save → t.b = s.b ∧ t.bv = s.bv) ∧
    ((∀ idx imm, i ≠ .ldr idx imm) → i ≠ .hdr → t.r = s.r) ∧
    ((∀ idx imm, i ≠ .ldr idx imm) → i ≠ .hdr → t.rv = s.rv) ∧
    ((∀ idx imm, i ≠ .ldc idx imm) → i ≠ .hdr → t.chk = s.chk) ∧
    ((∀ idx imm, i ≠ .ldc idx imm) → i ≠ .hdr → t.cv = s.cv) ∧
    (i ≠ .hdr → t.h = s.h ∧ t.hv = s.hv) ∧
    (i ≠ .seed → i ≠ .rest → i ≠ .hdr → t.kv = s.kv) ∧
    t.inputs = s.inputs ∧ t.delivered = s.delivered

/-- R34: KSB, RDH, RDK and RDS change no state but the response and the fault record, and answer the
same when repeated. -/
def Obligations.ReadCommandsHaveNoSideEffect : Prop :=
  ∀ (i : Instr) (s t : State),
    i = .ksb ∨ (∃ idx, i = .rdh idx) ∨ (∃ idx, i = .rdk idx) ∨ (∃ idx, i = .rds idx) →
    exec i s = .next t →
    t = { s with err := t.err, ecode := t.ecode, rsp := t.rsp } ∧
    (t.err = false → ∃ u, exec i (deliver t) = .next u ∧ u.rsp = t.rsp ∧
      u = { deliver t with rsp := u.rsp })

/-- R40, R43: every accepted word gets exactly one response, of one of the two shapes, and it
carries the fault record as it stands after the command. -/
def Obligations.OneLegalResponsePerWord : Prop :=
  ∀ (s : State) (w : CmdWord), s.Inv → ∃ (t : State) (x : RspWord),
    accept w s = .next t ∧ t.rsp = some x ∧ t.delivered = s.delivered ∧ legalResponse x = true ∧
    x.getLsbD 12 = t.err ∧ slice 8 4 x = t.ecode ∧ (cleanResponse x = true ↔ t.err = false) ∧
    ((∀ i, decode w = .ok i → returnsByte i = false) → slice 0 8 x = 0)

/-- R45, R46, R87, R110: no word in any state is without a meaning: every step answers a next
state. -/
def Obligations.EveryStepAnswersNextState : Prop :=
  (∀ s : State, ∃ t, step s = .next t) ∧
  (∀ (w : CmdWord) (s : State), ∃ t, accept w s = .next t) ∧
  (∀ (n : Nat) (s : State), ∃ t, Sys2Proof.core.run n s = .next t)

/-! ## The table, the arithmetic and the pure functions -/

/-- R28: every printed entry of T is what the generating procedure gives, and the table gives the
published check value of the text 123456789 and the key state of the password s3cret. The spec
marks table and procedure `from general knowledge, not in source` (log entry 8). -/
def Obligations.CrcTableIsGenerated : Prop :=
  (∀ n : Byte, T n = crcEntry n) ∧
  ([0x31, 0x32, 0x33, 0x34, 0x35, 0x36, 0x37, 0x38, 0x39] : List Byte).foldl
      (fun (c : Word) b => (c >>> 8) ^^^ T (slice 0 8 c ^^^ b)) 0xFFFFFFFF ^^^ 0xFFFFFFFF
    = 0xCBF43926 ∧
  initState [0x73, 0x33, 0x63, 0x72, 0x65, 0x74] = ⟨0x6AFADE02, 0x9FEAA373, 0x21F86344⟩

/-- R57: the new K1 is the exact sum and product plus 1, cut to 32 bits, which 64 bits hold; with
the two corner cases of the rule. -/
def Obligations.K1UpdateIsExactModulo : Prop :=
  ∀ (k : Keys) (b : Byte),
    (k.k1.toNat + (advance k b).k0.toNat % 256) * 134775813 + 1 < 2 ^ 60 ∧
    (advance k b).k1.toNat =
      ((k.k1.toNat + (advance k b).k0.toNat % 256) * 134775813 + 1) % 2 ^ 32 ∧
    (k.k1 = 0xFFFFFFFF → slice 0 8 (advance k b).k0 = 0xCE → (advance k b).k1 = 0x6ED1B802) ∧
    (k.k1 = 0 → slice 0 8 (advance k b).k0 = 0 → (advance k b).k1 = 1)

/-- R59, R52: the unmasked 32-bit reading of `temp` gives the same byte, with the product taken
exactly, modulo 2^32 or modulo 2^64; bits 1:0 and 31:16 of K2 do not matter; every byte value
occurs; and the corner cases of the rule. The spec marks the rule as its own inference, `derived:
from rule R52`. -/
def Obligations.KeystreamByteReadingsAgree : Prop :=
  (∀ k : Keys,
    let t32 := (k.k2 ||| 2).toNat
    let u32 := ((k.k2 ||| 2) ^^^ 1).toNat
    (keystreamByte k).toNat = t32 * u32 / 256 % 256 ∧
    (keystreamByte k).toNat = t32 * u32 % 2 ^ 32 / 256 % 256 ∧
    (keystreamByte k).toNat = t32 * u32 % 2 ^ 64 / 256 % 256) ∧
  (∀ k l : Keys, slice 2 14 k.k2 = slice 2 14 l.k2 → keystreamByte k = keystreamByte l) ∧
  (∀ b : Byte, ∃ k : Keys, keystreamByte k = b) ∧
  ∀ k : Keys,
    let t16 := slice 0 16 (k.k2 ||| 2)
    let prod := t16.toNat * (t16 ^^^ 1).toNat
    ((slice 0 16 k.k2).toNat ≤ 3 → prod = 6 ∧ keystreamByte k = 0x00) ∧
    (0xFFFC ≤ (slice 0 16 k.k2).toNat → prod = 0xFFFD0002 ∧ keystreamByte k = 0x00) ∧
    (slice 0 16 k.k2 = 0x0100 → prod = 0x00010506 ∧ keystreamByte k = 0x05) ∧
    (slice 0 16 k.k2 = 0x8000 → prod = 0x40028006 ∧ keystreamByte k = 0x80)

/-- R60: decrypting what was encrypted gives the plaintext back and leaves both sides in the same
state, for a byte and for a string of any length. The spec marks the rule as its own inference,
`derived: from rule R53 and rule R54`. -/
def Obligations.DecryptInvertsEncrypt : Prop :=
  (∀ (k k' : Keys) (p c : Byte), encryptByte k p = (k', c) → decryptByte k c = (k', p)) ∧
  ∀ (k : Keys) (ps : List Byte),
    decryptBytes k (encryptBytes k ps).2 = ((encryptBytes k ps).1, ps)

/-- R61: encrypting and decrypting a byte from one state answer the same byte; their next states are
`advance` by the two bytes, and agree exactly when the keystream byte is 0. The spec marks the rule
as its own inference, `derived: from rule R53 and rule R54`. -/
def Obligations.EncryptAndDecryptCoincideOnlyAtZero : Prop :=
  ∀ (k : Keys) (x : Byte),
    (encryptByte k x).2 = x ^^^ keystreamByte k ∧ (decryptByte k x).2 = x ^^^ keystreamByte k ∧
    (encryptByte k x).1 = advance k x ∧
    (decryptByte k x).1 = advance k (x ^^^ keystreamByte k) ∧
    ((encryptByte k x).1 = (decryptByte k x).1 ↔ keystreamByte k = 0x00)

/-- R69, R72: the header is the first ten bytes of the pass-1 ciphertext and the two check bytes,
encrypted a second time from the base key, and the end state is that of the second pass; so the last
two random bytes have no effect. -/
def Obligations.HeaderIsTwoPass : Prop :=
  ∀ (base : Keys) (r : Vector Byte 12) (chk : BitVec 16),
    let buf := (encryptBytes base r.toList).2.take 10 ++ [slice 0 8 chk, slice 8 8 chk]
    (buildHeader base r chk).2.toList = (encryptBytes base buf).2 ∧
    (buildHeader base r chk).1 = (encryptBytes base buf).1 ∧
    ∀ r' : Vector Byte 12, (∀ i : Fin 12, i.val < 10 → r'[i] = r[i]) →
      buildHeader base r' chk = buildHeader base r chk

/-- R70: decrypting the header from the base key gives the step-4 buffer, ends in the state that
encrypts the payload, and shows the check value in bytes 10 and 11, whatever the random bytes. The
spec marks the rule as its own inference, `derived: from rule R69` and R60. -/
def Obligations.HeaderDecryptsToCheckValue : Prop :=
  ∀ (base : Keys) (r : Vector Byte 12) (chk : BitVec 16),
    decryptBytes base (buildHeader base r chk).2.toList =
      ((buildHeader base r chk).1, (headerBuffer base r chk).toList) ∧
    (headerBuffer base r chk)[10].toNat = chk.toNat % 256 ∧
    (headerBuffer base r chk)[11].toNat = chk.toNat / 256

/-- R71: header byte 0 is random byte 0, for every base key, all random bytes and every check
value. The spec marks the rule as its own inference, `derived: from rule R69` and R53. -/
def Obligations.HeaderFirstByteIsFirstRandomByte : Prop :=
  ∀ (base : Keys) (r : Vector Byte 12) (chk : BitVec 16), (buildHeader base r chk).2[0] = r[0]

/-- R31: K moved a byte at a time is little-endian: the byte at position 4r + j is byte j of K[r],
and a byte written is read back with every other byte as it was. -/
def Obligations.KeyBytesAreLittleEndian : Prop :=
  ∀ (k : Keys) (i : Fin 12),
    (readKeyByte k i).toNat = (keyWord k (i.val / 4)).toNat / 256 ^ (i.val % 4) % 256 ∧
    ∀ (v : Byte) (j : Fin 12),
      readKeyByte (writeKeyByte k i v) j = if j = i then v else readKeyByte k j

/-! ## Sequences of commands -/

/-- R67: `INIT` leaves K = initState of the bytes and KV = 1, for any number of bytes. The spec
marks the rule as its own inference, `derived: from rule R62, rule R63 and rule R55`. -/
def Obligations.InitSequenceDerivesState : Prop :=
  ∀ (s : State) (pw : List Byte), s.err = false → s.rsp = none →
    runCommands (pseudoInit pw) s = .next
      { s with
        k := initState pw
        kv := true
        delivered := s.delivered ++ List.replicate (pw.length + 1) 0x0000 }

/-- R68: the responses of `ENCS` carry encryptBytes and K ends as its final state; `DECS` is the
same with decryptBytes. The spec marks the rule as its own inference, `derived: from rule R65, rule
R66 and rule R56`. -/
def Obligations.StreamSequencesEncryptAndDecrypt : Prop :=
  ∀ (s : State) (ps : List Byte), s.err = false → s.rsp = none → s.kv = true →
    runCommands (pseudoEncs ps) s = .next
      { s with
        k := (encryptBytes s.k ps).1
        delivered := s.delivered ++ (encryptBytes s.k ps).2.map okResponse } ∧
    runCommands (pseudoDecs ps) s = .next
      { s with
        k := (decryptBytes s.k ps).1
        delivered := s.delivered ++ (decryptBytes s.k ps).2.map okResponse }

/-- R80, R15: `KEY` leaves the base key equal to initState of the password, and no command but SAVE
changes it afterwards. The spec marks R80 as its own inference, `derived: from rule R67` and R74. -/
def Obligations.KeySequenceSavesBaseKey : Prop :=
  ∀ (s : State) (pw : List Byte), s.err = false → s.rsp = none →
    runCommands (pseudoKey pw) s = .next
      { s with
        k := initState pw
        kv := true
        b := initState pw
        bv := true
        delivered := s.delivered ++ List.replicate (pw.length + 2) 0x0000 } ∧
    ∀ (i : Instr) (t u : State), i ≠ .save → exec i t = .next u → u.b = t.b ∧ u.bv = t.bv

/-- R81: `MKHDR` answers fifteen zero bytes and then the header in archive order, and leaves K ready
for the payload. The spec marks the rule as its own inference, `derived: from rules R76, R77, R78
and R79`. -/
def Obligations.MakeHeaderSequenceReturnsHeader : Prop :=
  ∀ (s : State) (r : Vector Byte 12) (v : BitVec 16),
    s.err = false → s.rsp = none → s.bv = true →
    ∃ t, runCommands (pseudoMkhdr r v) s = .next t ∧
      t = { s with
        r := t.r
        chk := t.chk
        rv := 0
        cv := 0
        k := (buildHeader s.b r v).1
        kv := true
        h := (buildHeader s.b r v).2
        hv := true
        delivered := s.delivered ++ List.replicate 15 0x0000 ++
          (buildHeader s.b r v).2.toList.map okResponse }

/-- R49: `RDKW` reads K[r] low byte first and `WRKW` forces K[r]. -/
def Obligations.KeyWordSequences : Prop :=
  ∀ (s : State) (r : Fin 3) (v : Word), s.err = false → s.rsp = none → s.kv = true →
    runCommands (pseudoRdkw r) s = .next
      { s with
        delivered := s.delivered ++
          [okResponse (slice 0 8 (keyWord s.k r.val)), okResponse (slice 8 8 (keyWord s.k r.val)),
            okResponse (slice 16 8 (keyWord s.k r.val)),
            okResponse (slice 24 8 (keyWord s.k r.val))] } ∧
    runCommands (pseudoWrkw r v) s = .next
      { s with
        k := setKeyWord s.k r.val v
        delivered := s.delivered ++ List.replicate 4 0x0000 }

/-- R15, R103, R104: from a base key that is initState of the password, no list of commands without
SAVE changes the base key, so every later HDR and REST starts again from the password. -/
def Obligations.BaseKeySurvivesWithoutSave : Prop :=
  ∀ (pw : List Byte) (is : List Instr) (s t : State), BaseKeyOf pw s → noSave is →
    (∀ i ∈ is, i.wellFormed = true) → runCommands is s = .next t →
    BaseKeyOf pw t ∧
    (t.err = false → ∃ u, exec .rest t = .next u ∧ u.k = initState pw ∧ u.kv = true)

/-! ## Whole-machine results -/

/-- Every step keeps the invariant: the fault record and the valid flags are consistent (R22, V9)
and no response but the two shapes of R43 ever appears at the port or reaches the host. -/
def Obligations.StepKeepsInvariant : Prop :=
  ∀ s t : State, s.Inv → step s = .next t → t.Inv

/-- R26 (U1): what a register holds while its valid flag is 0 cannot be observed. Two states that
differ at most there take steps to two states that differ at most there, with the same response,
for any number of steps. In particular the model's choice of reset contents (log entry 1) is never
visible. -/
def Obligations.InvalidRegistersAreUnobservable : Prop :=
  ∀ (n : Nat) (s t : State), Agree s t →
    ∃ s' t', Sys2Proof.core.run n s = .next s' ∧ Sys2Proof.core.run n t = .next t' ∧ Agree s' t'

/-- R36, R40, with the port cycles of log entries 2 and 3: the port level refines the command level:
for a host that presents each word and takes its response, two steps a word, the machine's run is
the run of the words, one after the other. -/
def Obligations.PortRunIsCommandRun : Prop :=
  ∀ (ws : List CmdWord) (s : State) (rest : List HostCycle), s.rsp = none →
    s.inputs = handshake ws ++ rest →
    Sys2Proof.core.run (2 * ws.length) s = runWords ws { s with inputs := rest }

/-- R60, R68, R70, R80, R81: a writer keys the block, makes a header and encrypts a payload; a
reader that keys another block with the same password and decrypts header and payload gets twelve
bytes, of which bytes 10 and 11 are the check value, low byte first, and then the payload, and ends
in the writer's cipher state. For every password, payload, check value and random bytes. What bytes
0 to 9 are is said by `HeaderDecryptsToCheckValue`. The spec marks all five rules as its own
inferences: R60 `derived: from rule R53 and rule R54`, R68 from R65, R66 and R56, R70 from R69 and
R60, R80 from R67 and R74, R81 `derived: from rules R76, R77, R78 and R79`. -/
def Obligations.ReaderRecoversCheckValueAndPayload : Prop :=
  ∀ (pw ps : List Byte) (r : Vector Byte 12) (v : BitVec 16) (s u : State),
    s.err = false → s.rsp = none → u.err = false → u.rsp = none →
    ∃ (s' u' : State) (header cipher buf : List Byte),
      runCommands (pseudoKey pw ++ pseudoMkhdr r v ++ pseudoEncs ps) s = .next s' ∧
      s'.delivered = s.delivered ++ List.replicate (pw.length + 17) 0x0000 ++
        (header ++ cipher).map okResponse ∧
      header.length = 12 ∧ cipher.length = ps.length ∧
      runCommands (pseudoKey pw ++ [.rest] ++ pseudoDecs (header ++ cipher)) u = .next u' ∧
      u'.delivered = u.delivered ++ List.replicate (pw.length + 3) 0x0000 ++
        (buf ++ ps).map okResponse ∧
      buf.length = 12 ∧ buf[10]? = some (slice 0 8 v) ∧ buf[11]? = some (slice 8 8 v) ∧
      u'.k = s'.k ∧ CleanRun (s'.delivered.drop s.delivered.length) ∧
      CleanRun (u'.delivered.drop u.delivered.length)
end

