-- ==== Sys2Proof/Laws/Cipher.lean ====
section
/-!
SUPPORT. The cipher functions one register at a time, slices as quotients, and how the byte-string
functions go over a concatenation.
-/

namespace Sys2Proof.Machine

theorem slice_toNat {w : Nat} (lo n : Nat) (v : BitVec w) :
    (slice lo n v).toNat = v.toNat / 2 ^ lo % 2 ^ n := by
  rw [slice, BitVec.extractLsb'_toNat, Nat.shiftRight_eq_div_pow]

/-- A claim about every byte, checked byte by byte. -/
theorem byte_forall {P : Byte → Prop} (h : ∀ n : Fin 256, P (BitVec.ofFin n)) (b : Byte) : P b :=
  h b.toFin

theorem k1Multiplier_toNat : k1Multiplier.toNat = 134775813 := by decide

theorem advance_k0 (k : Keys) (b : Byte) :
    (advance k b).k0 = (k.k0 >>> 8) ^^^ T (slice 0 8 k.k0 ^^^ b) := by unfold advance; rfl

theorem advance_k1 (k : Keys) (b : Byte) :
    (advance k b).k1 =
      (k.k1 + (slice 0 8 (advance k b).k0).setWidth 32) * k1Multiplier + 1 := by
  unfold advance; rfl

theorem advance_k2 (k : Keys) (b : Byte) :
    (advance k b).k2 =
      (k.k2 >>> 8) ^^^ T (slice 0 8 k.k2 ^^^ slice 24 8 (advance k b).k1) := by
  unfold advance; rfl

theorem encryptBytes_append (k : Keys) (a b : List Byte) :
    encryptBytes k (a ++ b) =
      ((encryptBytes (encryptBytes k a).1 b).1,
        (encryptBytes k a).2 ++ (encryptBytes (encryptBytes k a).1 b).2) := by
  induction a generalizing k with
  | nil => rfl
  | cons p ps ih => simp only [List.cons_append, encryptBytes, ih]

theorem decryptBytes_append (k : Keys) (a b : List Byte) :
    decryptBytes k (a ++ b) =
      ((decryptBytes (decryptBytes k a).1 b).1,
        (decryptBytes k a).2 ++ (decryptBytes (decryptBytes k a).1 b).2) := by
  induction a generalizing k with
  | nil => rfl
  | cons p ps ih => simp only [List.cons_append, decryptBytes, ih]

/-- The step-4 buffer as a list: ten bytes of E1, then the check value low byte first (R69). -/
theorem headerBuffer_toList (base : Keys) (r : Vector Byte 12) (chk : BitVec 16) :
    (headerBuffer base r chk).toList =
      (encryptBytes base r.toList).2.take 10 ++ [slice 0 8 chk, slice 8 8 chk] := by
  have hl : (encryptBytes base r.toList).2.length = 12 := by simp [encryptBytes_length]
  have ht : (encryptVector base r).toList = (encryptBytes base r.toList).2 := by
    simp [encryptVector, Vector.toList]
  rw [headerBuffer, checkBuffer, Vector.toList_set, Vector.toList_set, ht]
  generalize (encryptBytes base r.toList).2 = l at *
  match l, hl with
  | [a0, a1, a2, a3, a4, a5, a6, a7, a8, a9, a10, a11], _ => rfl

end Sys2Proof.Machine
end

