-- ==== Sys2Proof/Laws/State.lean ====
section
/-!
SUPPORT. What each shared operation over the state leaves in each field, one lemma per field per
operation, so that no later proof unfolds a record update.
-/

namespace Sys2Proof.Machine

variable (s : State)

@[simp] theorem respond_k (d : Byte) : (respond d s).k = s.k := rfl
@[simp] theorem respond_b (d : Byte) : (respond d s).b = s.b := rfl
@[simp] theorem respond_r (d : Byte) : (respond d s).r = s.r := rfl
@[simp] theorem respond_chk (d : Byte) : (respond d s).chk = s.chk := rfl
@[simp] theorem respond_h (d : Byte) : (respond d s).h = s.h := rfl
@[simp] theorem respond_kv (d : Byte) : (respond d s).kv = s.kv := rfl
@[simp] theorem respond_bv (d : Byte) : (respond d s).bv = s.bv := rfl
@[simp] theorem respond_hv (d : Byte) : (respond d s).hv = s.hv := rfl
@[simp] theorem respond_rv (d : Byte) : (respond d s).rv = s.rv := rfl
@[simp] theorem respond_cv (d : Byte) : (respond d s).cv = s.cv := rfl
@[simp] theorem respond_err (d : Byte) : (respond d s).err = s.err := rfl
@[simp] theorem respond_ecode (d : Byte) : (respond d s).ecode = s.ecode := rfl
@[simp] theorem respond_rsp (d : Byte) : (respond d s).rsp = some (responseWord false 0 d) := rfl
@[simp] theorem respond_inputs (d : Byte) : (respond d s).inputs = s.inputs := rfl
@[simp] theorem respond_delivered (d : Byte) : (respond d s).delivered = s.delivered := rfl

@[simp] theorem raiseFault_k (c : FaultCode) : (raiseFault c s).k = s.k := rfl
@[simp] theorem raiseFault_b (c : FaultCode) : (raiseFault c s).b = s.b := rfl
@[simp] theorem raiseFault_r (c : FaultCode) : (raiseFault c s).r = s.r := rfl
@[simp] theorem raiseFault_chk (c : FaultCode) : (raiseFault c s).chk = s.chk := rfl
@[simp] theorem raiseFault_h (c : FaultCode) : (raiseFault c s).h = s.h := rfl
@[simp] theorem raiseFault_kv (c : FaultCode) : (raiseFault c s).kv = s.kv := rfl
@[simp] theorem raiseFault_bv (c : FaultCode) : (raiseFault c s).bv = s.bv := rfl
@[simp] theorem raiseFault_hv (c : FaultCode) : (raiseFault c s).hv = s.hv := rfl
@[simp] theorem raiseFault_rv (c : FaultCode) : (raiseFault c s).rv = s.rv := rfl
@[simp] theorem raiseFault_cv (c : FaultCode) : (raiseFault c s).cv = s.cv := rfl
@[simp] theorem raiseFault_err (c : FaultCode) : (raiseFault c s).err = true := rfl
@[simp] theorem raiseFault_ecode (c : FaultCode) : (raiseFault c s).ecode = faultBits c := rfl
@[simp] theorem raiseFault_rsp (c : FaultCode) : (raiseFault c s).rsp = some (responseWord true (faultBits c) 0) := rfl
@[simp] theorem raiseFault_inputs (c : FaultCode) : (raiseFault c s).inputs = s.inputs := rfl
@[simp] theorem raiseFault_delivered (c : FaultCode) : (raiseFault c s).delivered = s.delivered := rfl

@[simp] theorem answerRecorded_k : (answerRecorded s).k = s.k := rfl
@[simp] theorem answerRecorded_b : (answerRecorded s).b = s.b := rfl
@[simp] theorem answerRecorded_r : (answerRecorded s).r = s.r := rfl
@[simp] theorem answerRecorded_chk : (answerRecorded s).chk = s.chk := rfl
@[simp] theorem answerRecorded_h : (answerRecorded s).h = s.h := rfl
@[simp] theorem answerRecorded_kv : (answerRecorded s).kv = s.kv := rfl
@[simp] theorem answerRecorded_bv : (answerRecorded s).bv = s.bv := rfl
@[simp] theorem answerRecorded_hv : (answerRecorded s).hv = s.hv := rfl
@[simp] theorem answerRecorded_rv : (answerRecorded s).rv = s.rv := rfl
@[simp] theorem answerRecorded_cv : (answerRecorded s).cv = s.cv := rfl
@[simp] theorem answerRecorded_err : (answerRecorded s).err = s.err := rfl
@[simp] theorem answerRecorded_ecode : (answerRecorded s).ecode = s.ecode := rfl
@[simp] theorem answerRecorded_rsp : (answerRecorded s).rsp = some (responseWord true s.ecode 0) := rfl
@[simp] theorem answerRecorded_inputs : (answerRecorded s).inputs = s.inputs := rfl
@[simp] theorem answerRecorded_delivered : (answerRecorded s).delivered = s.delivered := rfl

@[simp] theorem resetBlock_k : (resetBlock s).k = Keys.atReset := rfl
@[simp] theorem resetBlock_b : (resetBlock s).b = Keys.atReset := rfl
@[simp] theorem resetBlock_r : (resetBlock s).r = Vector.replicate 12 Config.resetByte := rfl
@[simp] theorem resetBlock_chk : (resetBlock s).chk = Config.resetCheck := rfl
@[simp] theorem resetBlock_h : (resetBlock s).h = Vector.replicate 12 Config.resetByte := rfl
@[simp] theorem resetBlock_kv : (resetBlock s).kv = false := rfl
@[simp] theorem resetBlock_bv : (resetBlock s).bv = false := rfl
@[simp] theorem resetBlock_hv : (resetBlock s).hv = false := rfl
@[simp] theorem resetBlock_rv : (resetBlock s).rv = 0 := rfl
@[simp] theorem resetBlock_cv : (resetBlock s).cv = 0 := rfl
@[simp] theorem resetBlock_err : (resetBlock s).err = false := rfl
@[simp] theorem resetBlock_ecode : (resetBlock s).ecode = 0 := rfl
@[simp] theorem resetBlock_rsp : (resetBlock s).rsp = none := rfl
@[simp] theorem resetBlock_inputs : (resetBlock s).inputs = s.inputs := rfl
@[simp] theorem resetBlock_delivered : (resetBlock s).delivered = s.delivered := rfl

@[simp] theorem deliver_k : (deliver s).k = s.k := by
  cases h : s.rsp <;> simp [deliver, h]
@[simp] theorem deliver_b : (deliver s).b = s.b := by
  cases h : s.rsp <;> simp [deliver, h]
@[simp] theorem deliver_r : (deliver s).r = s.r := by
  cases h : s.rsp <;> simp [deliver, h]
@[simp] theorem deliver_chk : (deliver s).chk = s.chk := by
  cases h : s.rsp <;> simp [deliver, h]
@[simp] theorem deliver_h : (deliver s).h = s.h := by
  cases h : s.rsp <;> simp [deliver, h]
@[simp] theorem deliver_kv : (deliver s).kv = s.kv := by
  cases h : s.rsp <;> simp [deliver, h]
@[simp] theorem deliver_bv : (deliver s).bv = s.bv := by
  cases h : s.rsp <;> simp [deliver, h]
@[simp] theorem deliver_hv : (deliver s).hv = s.hv := by
  cases h : s.rsp <;> simp [deliver, h]
@[simp] theorem deliver_rv : (deliver s).rv = s.rv := by
  cases h : s.rsp <;> simp [deliver, h]
@[simp] theorem deliver_cv : (deliver s).cv = s.cv := by
  cases h : s.rsp <;> simp [deliver, h]
@[simp] theorem deliver_err : (deliver s).err = s.err := by
  cases h : s.rsp <;> simp [deliver, h]
@[simp] theorem deliver_ecode : (deliver s).ecode = s.ecode := by
  cases h : s.rsp <;> simp [deliver, h]
@[simp] theorem deliver_rsp : (deliver s).rsp = none := by
  cases h : s.rsp <;> simp [deliver, h]
@[simp] theorem deliver_inputs : (deliver s).inputs = s.inputs := by
  cases h : s.rsp <;> simp [deliver, h]
@[simp] theorem deliver_delivered : (deliver s).delivered = s.delivered ++ s.rsp.toList := by
  cases h : s.rsp <;> simp [deliver, h]

end Sys2Proof.Machine
end

