-- ==== Sys2Proof/Laws/Ops.lean ====
section
/-!
SUPPORT. One lemma per shared operation, saying once everything it can do.
-/

namespace Sys2Proof.Machine

/-- A command in the fault state: the recorded code and nothing else (R91). -/
theorem command_of_err {s : State} (h : s.err = true) (body : State) :
    command s body = .next (answerRecorded s) := by simp [command, h]

/-- A command outside the fault state has its own effect. -/
theorem command_of_live {s : State} (h : s.err = false) (body : State) :
    command s body = .next body := by simp [command, h]

/-- `command` always answers a next state, one of two. -/
theorem command_eq_next {s body t : State} :
    command s body = .next t ↔
      (s.err = true ∧ t = answerRecorded s) ∨ (s.err = false ∧ t = body) := by
  cases h : s.err <;> simp [command, h, eq_comm]

theorem require_of_true {p : Bool} (h : p = true) (c : FaultCode) (s body : State) :
    require p c s body = body := by simp [require, h]

theorem require_of_false {p : Bool} (h : p = false) (c : FaultCode) (s body : State) :
    require p c s body = raiseFault c s := by simp [require, h]

/-- `require` gives its body or the fault. -/
theorem require_cases (p : Bool) (c : FaultCode) (s body : State) :
    (p = true ∧ require p c s body = body) ∨
      (p = false ∧ require p c s body = raiseFault c s) := by
  cases p <;> simp [require]

theorem indexIn_eq_some {n : Nat} {idx : BitVec 4} {i : Fin n} :
    indexIn n idx = some i ↔ idx.toNat = i.val := by
  unfold indexIn
  split
  · simp [Fin.ext_iff]
  · constructor
    · simp
    · intro h; have := i.isLt; omega

theorem indexIn_eq_none {n : Nat} {idx : BitVec 4} : indexIn n idx = none ↔ n ≤ idx.toNat := by
  unfold indexIn
  split <;> simp <;> omega

theorem deliver_of_none {s : State} (h : s.rsp = none) : deliver s = s := by simp [deliver, h]

theorem deliver_of_some {s : State} {w : RspWord} (h : s.rsp = some w) :
    deliver s = { s with rsp := none, delivered := s.delivered ++ [w] } := by simp [deliver, h]

theorem randomFull_iff (rv : BitVec 12) : randomFull rv = true ↔ rv = 0xFFF := by
  simp [randomFull]

theorem checkFull_iff (cv : BitVec 2) : checkFull cv = true ↔ cv = 0b11 := by
  simp [checkFull]

/-- `RV[i] <- 1` sets bit `i` and no other (R17). -/
theorem markRandom_getLsbD (rv : BitVec 12) (i j : Fin 12) :
    (markRandom rv i).getLsbD j.val = (rv.getLsbD j.val || decide (i = j)) := by
  revert i j; unfold markRandom
  intro i j
  rw [BitVec.getLsbD_or]
  congr 1
  revert i j; decide

/-- `CV[i] <- 1` sets bit `i` and no other (R18). -/
theorem markCheck_getLsbD (cv : BitVec 2) (i j : Fin 2) :
    (markCheck cv i).getLsbD j.val = (cv.getLsbD j.val || decide (i = j)) := by
  unfold markCheck
  rw [BitVec.getLsbD_or]
  congr 1
  revert i j; decide

/-- `LDC 0` replaces the low byte (R77). -/
theorem writeCheckByte_low (chk : BitVec 16) (v : Byte) :
    (writeCheckByte chk 0 v).toNat = chk.toNat / 256 * 256 + v.toNat := by
  have hc := chk.isLt
  have hv := v.isLt
  rw [writeCheckByte]
  simp only [BitVec.toNat_append, slice, BitVec.extractLsb'_toNat]
  rw [← Nat.shiftLeft_add_eq_or_of_lt (by simpa using hv), Nat.shiftRight_eq_div_pow,
    Nat.shiftLeft_eq]
  omega

/-- `LDC 1` replaces the high byte (R77). -/
theorem writeCheckByte_high (chk : BitVec 16) (v : Byte) :
    (writeCheckByte chk 1 v).toNat = v.toNat * 256 + chk.toNat % 256 := by
  have hc := chk.isLt
  have hv := v.isLt
  rw [writeCheckByte]
  simp only [BitVec.toNat_append, slice, BitVec.extractLsb'_toNat]
  rw [← Nat.shiftLeft_add_eq_or_of_lt (Nat.mod_lt _ (by decide)), Nat.shiftLeft_eq]
  simp

/-- The fixed-width ciphertext is the ciphertext of the list. -/
@[simp] theorem encryptVector_toList {n : Nat} (k : Keys) (v : Vector Byte n) :
    (encryptVector k v).toList = (encryptBytes k v.toList).2 := by
  simp [encryptVector, Vector.toList]

theorem keyWord_setKeyWord (k : Keys) (i j : Fin 3) (v : Word) :
    keyWord (setKeyWord k i.val v) j.val = if i = j then v else keyWord k j.val := by
  obtain ⟨i, hi⟩ := i
  obtain ⟨j, hj⟩ := j
  interval_cases i <;> interval_cases j <;> rfl

end Sys2Proof.Machine
end

