-- ==== Sys2Proof/Laws/Exec.lean ====
section
/-!
SUPPORT. Everything a command can do, said once: outside the fault state its own effect (`Effect`,
with the conditions under which it has it) or a fault that changes the fault record only; in the
fault state the recorded answer. Proofs about all commands cite `exec_cases` and split on `Effect`.
-/

namespace Sys2Proof.Machine

/-- The next state of each command that meets no fault, and when it has it. -/
inductive Effect : Instr → State → State → Prop
  | nop (s : State) : Effect .nop s (respond 0 s)
  | seed (s : State) : Effect .seed s (respond 0 { s with k := seedState, kv := true })
  | adv (imm : Byte) (s : State) : s.kv = true →
      Effect (.adv imm) s (respond 0 { s with k := advance s.k imm })
  | ksb (s : State) : s.kv = true → Effect .ksb s (respond (keystreamByte s.k) s)
  | enc (imm : Byte) (s : State) : s.kv = true →
      Effect (.enc imm) s (respond (encryptByte s.k imm).2 { s with k := (encryptByte s.k imm).1 })
  | dec (imm : Byte) (s : State) : s.kv = true →
      Effect (.dec imm) s (respond (decryptByte s.k imm).2 { s with k := (decryptByte s.k imm).1 })
  | save (s : State) : s.kv = true → Effect .save s (respond 0 { s with b := s.k, bv := true })
  | rest (s : State) : s.bv = true → Effect .rest s (respond 0 { s with k := s.b, kv := true })
  | ldr (idx : BitVec 4) (imm : Byte) (s : State) (i : Fin 12) : idx.toNat = i.val →
      Effect (.ldr idx imm) s (respond 0 { s with r := s.r.set i imm, rv := markRandom s.rv i })
  | ldc (idx : BitVec 4) (imm : Byte) (s : State) (i : Fin 2) : idx.toNat = i.val →
      Effect (.ldc idx imm) s
        (respond 0 { s with chk := writeCheckByte s.chk i imm, cv := markCheck s.cv i })
  | hdr (s : State) : s.bv = true → s.rv = 0xFFF → s.cv = 0b11 →
      Effect .hdr s (respond 0
        { s with
          k := (buildHeader s.b s.r s.chk).1
          h := (buildHeader s.b s.r s.chk).2
          kv := true
          hv := true
          rv := 0
          cv := 0 })
  | rdh (idx : BitVec 4) (s : State) (i : Fin 12) : idx.toNat = i.val → s.hv = true →
      Effect (.rdh idx) s (respond s.h[i] s)
  | rdk (idx : BitVec 4) (s : State) (i : Fin 12) : idx.toNat = i.val → s.kv = true →
      Effect (.rdk idx) s (respond (readKeyByte s.k i) s)
  | wrk (idx : BitVec 4) (imm : Byte) (s : State) (i : Fin 12) : idx.toNat = i.val →
      s.kv = true → Effect (.wrk idx imm) s (respond 0 { s with k := writeKeyByte s.k i imm })
  | rds (idx : BitVec 4) (s : State) (i : Fin 3) : idx.toNat = i.val →
      Effect (.rds idx) s (respond (readStatus s i) s)

/-- What holds of the body when the requirement holds, or a fault. -/
theorem require_of_imp {p : Bool} {c : FaultCode} {s body : State} {Q : State → Prop}
    (h : p = true → Q body) : Q (require p c s body) ∨ ∃ c', require p c s body = raiseFault c' s := by
  cases p
  · exact .inr ⟨c, rfl⟩
  · exact .inl (h rfl)

/-- The body of each command outside the fault state: its effect or a fault. -/
theorem exec_of_live (i : Instr) {s : State} (h : s.err = false) :
    ∃ t, exec i s = .next t ∧ (Effect i s t ∨ ∃ c, t = raiseFault c s) := by
  cases i with
  | nop => exact ⟨_, command_of_live h _, .inl (.nop s)⟩
  | seed => exact ⟨_, command_of_live h _, .inl (.seed s)⟩
  | adv imm => exact ⟨_, command_of_live h _, require_of_imp (.adv imm s)⟩
  | ksb => exact ⟨_, command_of_live h _, require_of_imp (.ksb s)⟩
  | enc imm => exact ⟨_, command_of_live h _, require_of_imp (.enc imm s)⟩
  | dec imm => exact ⟨_, command_of_live h _, require_of_imp (.dec imm s)⟩
  | save => exact ⟨_, command_of_live h _, require_of_imp (.save s)⟩
  | rest => exact ⟨_, command_of_live h _, require_of_imp (.rest s)⟩
  | ldr idx imm =>
    refine ⟨_, command_of_live h _, ?_⟩
    cases hi : byteIndex idx with
    | none => exact .inr ⟨_, rfl⟩
    | some i => exact .inl (.ldr idx imm s i (indexIn_eq_some.1 hi))
  | ldc idx imm =>
    refine ⟨_, command_of_live h _, ?_⟩
    cases hi : checkIndex idx with
    | none => exact .inr ⟨_, rfl⟩
    | some i => exact .inl (.ldc idx imm s i (indexIn_eq_some.1 hi))
  | hdr =>
    refine ⟨_, command_of_live h _, ?_⟩
    by_cases hb : s.bv = true
    · rw [require_of_true hb]
      refine require_of_imp fun hp => ?_
      rw [Bool.and_eq_true, randomFull_iff, checkFull_iff] at hp
      exact .hdr s hb hp.1 hp.2
    · rw [require_of_false (Bool.eq_false_iff.2 hb)]
      exact .inr ⟨_, rfl⟩
  | rdh idx =>
    refine ⟨_, command_of_live h _, ?_⟩
    cases hi : byteIndex idx with
    | none => exact .inr ⟨_, rfl⟩
    | some i => exact require_of_imp (.rdh idx s i (indexIn_eq_some.1 hi))
  | rdk idx =>
    refine ⟨_, command_of_live h _, ?_⟩
    cases hi : byteIndex idx with
    | none => exact .inr ⟨_, rfl⟩
    | some i => exact require_of_imp (.rdk idx s i (indexIn_eq_some.1 hi))
  | wrk idx imm =>
    refine ⟨_, command_of_live h _, ?_⟩
    cases hi : byteIndex idx with
    | none => exact .inr ⟨_, rfl⟩
    | some i => exact require_of_imp (.wrk idx imm s i (indexIn_eq_some.1 hi))
  | rds idx =>
    refine ⟨_, command_of_live h _, ?_⟩
    cases hi : statusIndex idx with
    | none => exact .inr ⟨_, rfl⟩
    | some i => exact .inl (.rds idx s i (indexIn_eq_some.1 hi))

/-- Every next state of every command: the recorded answer in the fault state, else the command's
effect or a fault. -/
theorem exec_cases {i : Instr} {s t : State} (h : exec i s = .next t) :
    (s.err = true ∧ t = answerRecorded s) ∨
      (s.err = false ∧ (Effect i s t ∨ ∃ c, t = raiseFault c s)) := by
  cases he : s.err with
  | true =>
    refine .inl ⟨rfl, ?_⟩
    have : exec i s = .next (answerRecorded s) := by cases i <;> exact command_of_err he _
    rw [this] at h
    cases h
    rfl
  | false =>
    obtain ⟨u, hu, hc⟩ := exec_of_live i he
    rw [hu] at h
    cases h
    exact .inr ⟨rfl, hc⟩

/-- A word that spells a command is that command. -/
theorem accept_of_ok {w : CmdWord} {i : Instr} (h : decode w = .ok i) (s : State) :
    accept w s = exec i s := by rw [accept, h]

/-- A word that spells none is its decode fault. -/
theorem accept_of_error {w : CmdWord} {c : FaultCode} (h : decode w = .error c) (s : State) :
    accept w s = command s (raiseFault c s) := by rw [accept, h]

end Sys2Proof.Machine
end

