-- ==== Sys2Proof/Laws/PerInstr.lean ====
section
/-!
SUPPORT. Per-command facts about the syntax. EncodeFields: each field of a command's word holds what
R41 and R42 put there, so no bit of the encoding is lost.
-/

namespace Sys2Proof

theorem opField_packWord (op idx : BitVec 4) (imm : Byte) :
    opField (packWord op idx imm) = op := by
  ext i hi
  simp only [opField, packWord, slice, BitVec.getElem_extractLsb', BitVec.getLsbD_append]
  simp [show ¬ 12 + i < 8 from by omega, show ¬ 12 + i - 8 < 4 from by omega,
    show 12 + i - 8 - 4 = i from by omega, hi]

theorem idxField_packWord (op idx : BitVec 4) (imm : Byte) :
    idxField (packWord op idx imm) = idx := by
  ext i hi
  simp only [idxField, packWord, slice, BitVec.getElem_extractLsb', BitVec.getLsbD_append]
  simp [show ¬ 8 + i < 8 from by omega, show 8 + i - 8 = i from by omega, hi]

theorem immField_packWord (op idx : BitVec 4) (imm : Byte) :
    immField (packWord op idx imm) = imm := by
  ext i hi
  simp only [immField, packWord, slice, BitVec.getElem_extractLsb', BitVec.getLsbD_append]
  simp [hi]

/-- A word is the word of its three fields. -/
theorem packWord_fields (w : CmdWord) : packWord (opField w) (idxField w) (immField w) = w := by
  apply BitVec.eq_of_getLsbD_eq
  intro i hi
  have e : (packWord (opField w) (idxField w) (immField w)).getLsbD i =
      ((opField w ++ idxField w ++ immField w : BitVec (4 + 4 + 8))).getLsbD i := rfl
  rw [e]
  simp only [opField, idxField, immField, slice, BitVec.getLsbD_append,
    BitVec.getLsbD_extractLsb']
  split
  · simp [*]
  · split
    · rw [show 8 + (i - 8) = i from by omega]; simp [*]
    · rw [show 12 + (i - 8 - 4) = i from by omega]; simp; omega

/-- The decoder on a word given by its three fields. -/
theorem decode_packWord (op idx : BitVec 4) (imm : Byte) :
    decode (packWord op idx imm) = decodeFields op idx imm := by
  rw [decode, opField_packWord, idxField_packWord, immField_packWord]

namespace Laws.EncodeFields

/-- The three fields of the command's word are its opcode, its index field and its byte field. -/
def Statement (i : Instr) : Prop :=
  opField (encode i) = i.opcode ∧ idxField (encode i) = i.idxField ∧
    immField (encode i) = i.immField

theorem packed (i : Instr) : Statement i :=
  ⟨opField_packWord _ _ _, idxField_packWord _ _ _, immField_packWord _ _ _⟩

theorem nop : Statement .nop := packed _
theorem seed : Statement .seed := packed _
theorem adv (imm : Byte) : Statement (.adv imm) := packed _
theorem ksb : Statement .ksb := packed _
theorem enc (imm : Byte) : Statement (.enc imm) := packed _
theorem dec (imm : Byte) : Statement (.dec imm) := packed _
theorem save : Statement .save := packed _
theorem rest : Statement .rest := packed _
theorem ldr (idx : BitVec 4) (imm : Byte) : Statement (.ldr idx imm) := packed _
theorem ldc (idx : BitVec 4) (imm : Byte) : Statement (.ldc idx imm) := packed _
theorem hdr : Statement .hdr := packed _
theorem rdh (idx : BitVec 4) : Statement (.rdh idx) := packed _
theorem rdk (idx : BitVec 4) : Statement (.rdk idx) := packed _
theorem wrk (idx : BitVec 4) (imm : Byte) : Statement (.wrk idx imm) := packed _
theorem rds (idx : BitVec 4) : Statement (.rds idx) := packed _

end Laws.EncodeFields

end Sys2Proof
end

