-- ==== Sys2Proof/Laws/Run.lean ====
section
/-!
SUPPORT. One step of a run, at the port level and at the level of words and commands.
-/

namespace Sys2Proof.Machine

/-- A run of any machine whose first step answers a next state. -/
theorem run_succ {M : Host.Core} {n : Nat} {s t : M.State} (h : M.step s = .next t) :
    M.run (n + 1) s = M.run n t := by rw [Host.Core.run, h]

/-- `run_succ` at this machine, in its own names. -/
theorem core_run_succ {n : Nat} {s t : State} (h : step s = .next t) :
    Sys2Proof.core.run (n + 1) s = Sys2Proof.core.run n t :=
  run_succ (M := Sys2Proof.core) h

theorem runWords_cons {w : CmdWord} {ws : List CmdWord} {s t : State} (h : accept w s = .next t) :
    runWords (w :: ws) s = runWords ws (deliver t) := by rw [runWords, h]

theorem runWords_append {a b : List CmdWord} {s t : State} (h : runWords a s = .next t) :
    runWords (a ++ b) s = runWords b t := by
  induction a generalizing s with
  | nil => rw [runWords] at h; cases h; rfl
  | cons w a ih =>
    rw [List.cons_append, runWords]
    rw [runWords] at h
    cases ha : accept w s with
    | next u => rw [ha] at h; exact ih h
    | fault r => rw [ha] at h; cases h
    | refused r => rw [ha] at h; cases h

/-- One command of a run whose word decodes back to it. -/
theorem runCommands_cons {i : Instr} {is : List Instr} {s t : State}
    (hd : decode (encode i) = .ok i) (h : exec i s = .next t) :
    runCommands (i :: is) s = runCommands is (deliver t) := by
  rw [runCommands, List.map_cons, runWords_cons ((accept_of_ok hd s).trans h), runCommands]

end Sys2Proof.Machine
end

