-- ==== Sys2Proof/Tests/Slice0.lean ====
section
/-!
SUPPORT. The model's own tests. Expected values come from spec/95_test_vectors.md (S1, V1 to V10, P1 to
P6) and from the worked examples of the rules named. Then, for every statement of
Certificates/Slice0/Obligations.lean that has hypotheses, a witness that meets them.
-/

namespace Sys2Proof.Tests

open Sys2Proof.Machine

/-! ## Helpers -/

/-- The reset state with K given. -/
def keyed (k : Keys) : State := { State.reset with k := k, kv := true }

/-- initState of the password s3cret, as the spec prints it (S1). -/
def s3cret : Keys := ⟨0x6AFADE02, 0x9FEAA373, 0x21F86344⟩

/-- The random bytes of the first block of V6. -/
def random10 : Vector Byte 12 :=
  #v[0x10, 0x11, 0x12, 0x13, 0x14, 0x15, 0x16, 0x17, 0x18, 0x19, 0x1A, 0x1B]

/-- The header of the first block of V6. -/
def header10 : Vector Byte 12 :=
  #v[0x10, 0xA5, 0x30, 0x27, 0x56, 0x06, 0x9A, 0xCA, 0x99, 0x16, 0x3A, 0x5A]

/-- The state just before the HDR of program P3. -/
def loaded : State :=
  { keyed s3cret with b := s3cret, bv := true, r := random10, rv := 0xFFF, chk := 0x645C, cv := 3 }

/-- A state whose header is finished. -/
def built : State := { loaded with h := header10, hv := true, rv := 0, cv := 0 }

/-- A state that has faulted with code 4. -/
def faulted : State := { State.reset with err := true, ecode := 4 }

/-- The reset state with port cycles to come. -/
def driven (cs : List HostCycle) : State := { State.reset with inputs := cs }

/-- The outcome is a next state that passes. -/
def gives (o : Host.Outcome State Fault Refusal) (p : State → Bool) : Bool :=
  match o with
  | .next t => p t
  | .fault _ => false
  | .refused _ => false

/-- The words run from reset and answer these responses (R109). -/
def answers (ws : List CmdWord) (rs : List RspWord) : Bool :=
  gives (runWords ws State.reset) fun t => t.delivered == rs

/-! ## Well-formedness: each check refuses an ill-formed term (R42) -/

theorem test_wf_ldr : (Instr.ldr 12 0).wellFormed = false ∧ (Instr.ldr 11 0).wellFormed = true := by
  decide
theorem test_wf_ldc : (Instr.ldc 2 0).wellFormed = false ∧ (Instr.ldc 1 0).wellFormed = true := by
  decide
theorem test_wf_rdh : (Instr.rdh 12).wellFormed = false ∧ (Instr.rdh 11).wellFormed = true := by
  decide
theorem test_wf_rdk : (Instr.rdk 12).wellFormed = false ∧ (Instr.rdk 11).wellFormed = true := by
  decide
theorem test_wf_wrk : (Instr.wrk 12 0).wellFormed = false ∧ (Instr.wrk 11 0).wellFormed = true := by
  decide
theorem test_wf_rds : (Instr.rds 3).wellFormed = false ∧ (Instr.rds 2).wellFormed = true := by
  decide

/-! ## Decoding: a word per constructor, written bit by bit from R41 and R44 (V7) -/

theorem test_decode_nop : decode 0b0000_0000_00000000 = .ok .nop := by decide
theorem test_decode_seed : decode 0b0001_0000_00000000 = .ok .seed := by decide
theorem test_decode_adv : decode 0b0010_0000_01110011 = .ok (.adv 0x73) := by decide
theorem test_decode_ksb : decode 0b0011_0000_00000000 = .ok .ksb := by decide
theorem test_decode_enc : decode 0b0100_0000_01001000 = .ok (.enc 0x48) := by decide
theorem test_decode_dec : decode 0b0101_0000_11010010 = .ok (.dec 0xD2) := by decide
theorem test_decode_save : decode 0b0110_0000_00000000 = .ok .save := by decide
theorem test_decode_rest : decode 0b0111_0000_00000000 = .ok .rest := by decide
theorem test_decode_ldr : decode 0b1000_1011_00011011 = .ok (.ldr 11 0x1B) := by decide
theorem test_decode_ldc : decode 0b1001_0001_01100100 = .ok (.ldc 1 0x64) := by decide
theorem test_decode_hdr : decode 0b1010_0000_00000000 = .ok .hdr := by decide
theorem test_decode_rdh : decode 0b1011_1011_00000000 = .ok (.rdh 11) := by decide
theorem test_decode_rdk : decode 0b1100_0100_00000000 = .ok (.rdk 4) := by decide
theorem test_decode_wrk : decode 0b1101_0111_11111111 = .ok (.wrk 7 0xFF) := by decide
theorem test_decode_rds : decode 0b1110_0010_00000000 = .ok (.rds 2) := by decide

/-- The illegal words of V7. -/
theorem test_decode_illegal :
    ([0x0001, 0x1100, 0x2173, 0x30FF, 0x4F48, 0x51D2, 0x6100, 0x7001, 0xA001, 0xBC55, 0xC401] :
        List CmdWord).all (fun w => decode w == .error .reservedField) ∧
      ([0x8C00, 0x9200, 0xBC00, 0xDCFF, 0xE300] : List CmdWord).all
        (fun w => decode w == .error .indexRange) ∧
      ([0xF000, 0xF123, 0xFFFF] : List CmdWord).all
        (fun w => decode w == .error .reservedOpcode) := by decide

/-- The encoder on the assembly column of V7. -/
theorem test_encode :
    ([.nop, .seed, .adv 0x73, .ksb, .enc 0x48, .dec 0xD2, .save, .rest, .ldr 11 0x1B, .ldc 1 0x64,
        .hdr, .rdh 11, .rdk 4, .wrk 7 0xFF, .rds 2] : List Instr).map encode =
      [0x0000, 0x1000, 0x2073, 0x3000, 0x4048, 0x50D2, 0x6000, 0x7000, 0x8B1B, 0x9164, 0xA000,
        0xBB00, 0xC400, 0xD7FF, 0xE200] := by decide

theorem test_decode_table_word :
    decodeTableWord 16 0x8B1B = some (.ldr 11 0x1B) ∧ decodeTableWord 16 0xF000 = none := by decide

/-- The host presents SEED, also over a waiting response, and the very next step runs it. -/
theorem test_with_fetch_word :
    gives (step (State.reset.withFetchWord 16 0x1000)) (fun t => t.k == seedState && t.kv) ∧
      gives (step ({ faulted with err := false, ecode := 0, rsp := some 0x0012 }.withFetchWord 16 0x1000))
        (fun t => t.kv && t.delivered == [0x0012]) := by decide

/-! ## The table and the pure functions -/

/-- R28, R51, R52: entries named in the worked examples and traces (S1). -/
theorem test_crc_table : T 0x0B = 0x97D2D988 ∧ T 0x65 = 0x3DD895D7 ∧ T 0xED = 0xDEBB9EC5 ∧
    T 0xFF = 0x2D02EF8D := by decide +kernel

/-- V1: the all-ones state with b = FF, and the key state with b = 80. -/
theorem test_advance : advance ⟨0xFFFFFFFF, 0xFFFFFFFF, 0xFFFFFFFF⟩ 0xFF
      = ⟨0x00FFFFFF, 0xF872FCF7, 0x9E9B6A5C⟩ ∧
    advance s3cret 0x80 = ⟨0x03DC18D2, 0x6670C95A, 0xD541B987⟩ := by decide +kernel

/-- V2: the K1 boundary without a carry out of the sum. -/
theorem test_advance_wraps :
    advance ⟨0, 0xFFFFFFFF, 0⟩ 0 = ⟨0, 0xF7F77BFC, 0x23D967BF⟩ := by decide +kernel

/-- V3. -/
theorem test_keystream_byte : keystreamByte ⟨0, 0, 0x34567890⟩ = 0xAB ∧
    keystreamByte ⟨0, 0, 0xFFFFFFFF⟩ = 0x00 ∧ keystreamByte ⟨0, 0, 0xABCD⟩ = 0x85 := by decide

/-- V5, S1. -/
theorem test_init_state : initState [0x73, 0x33, 0x63, 0x72, 0x65, 0x74] = s3cret ∧
    initState [0xC3, 0xA9] = ⟨0x2A338ACA, 0xFE290C5B, 0x04DB1243⟩ := by decide +kernel

/-- S3: "Hi!" under s3cret, both ways. -/
theorem test_byte_strings :
    encryptBytes s3cret [0x48, 0x69, 0x21] =
      (⟨0xC7883B5F, 0xE189BCFB, 0x17B9913E⟩, [0xD2, 0x03, 0xE6]) ∧
    decryptBytes s3cret [0xD2, 0x03, 0xE6] =
      (⟨0xC7883B5F, 0xE189BCFB, 0x17B9913E⟩, [0x48, 0x69, 0x21]) := by decide +kernel

/-- V6, the block with base initState("password"). -/
theorem test_build_header :
    buildHeader ⟨0xEA9B4E4D, 0xBA789085, 0x5FF8707D⟩
        #v[0xA5, 0x5A, 0xA5, 0x5A, 0xA5, 0x5A, 0xA5, 0x5A, 0xA5, 0x5A, 0xA5, 0x5A] 0x8001 =
      (⟨0x8B66D1F0, 0xC8DA8EF3, 0x1B24611A⟩,
        #v[0xA5, 0x21, 0xF6, 0xEC, 0x08, 0xBF, 0x31, 0xE5, 0xC3, 0x23, 0x1B, 0xFF]) := by
  decide +kernel

/-! ## The commands, at most two tests each -/

/-- R82. -/
theorem test_nop : answers [0x0000] [0x0000] := by decide
/-- R62: SEED on a valid K discards it. -/
theorem test_seed : gives (exec .seed (keyed s3cret)) fun t =>
    t.k == ⟨0x12345678, 0x23456789, 0x34567890⟩ && t.kv && t.rsp == some 0x0000 := by decide
/-- R63. -/
theorem test_adv : gives (exec (.adv 0x73) (keyed seedState)) fun t =>
    t.k == ⟨0x97C0EDDE, 0xF5682604, 0x3DECC3AF⟩ && t.rsp == some 0x0000 := by decide +kernel
/-- V10. -/
theorem test_adv_faults : answers [0x2073] [0x1400] := by decide
/-- R64. -/
theorem test_ksb : gives (exec .ksb (keyed s3cret)) fun t =>
    t.k == s3cret && t.rsp == some 0x009A := by decide
/-- V9. -/
theorem test_ksb_faults_sticky : answers [0x3000, 0x1000, 0x0000] [0x1400, 0x1400, 0x1400] := by
  decide
/-- V4 step 1. -/
theorem test_enc : gives (exec (.enc 0x48) (keyed s3cret)) fun t =>
    t.k == ⟨0x96635250, 0x521DBED0, 0xF4F54D32⟩ && t.rsp == some 0x00D2 := by decide +kernel
/-- V10. -/
theorem test_enc_faults : answers [0x4048] [0x1400] := by decide
/-- V4 step 1, read the other way: K advances by the plaintext. -/
theorem test_dec : gives (exec (.dec 0xD2) (keyed s3cret)) fun t =>
    t.k == ⟨0x96635250, 0x521DBED0, 0xF4F54D32⟩ && t.rsp == some 0x0048 := by decide +kernel
/-- V10. -/
theorem test_dec_faults : answers [0x50D2] [0x1400] := by decide
/-- R74. -/
theorem test_save : gives (exec .save (keyed s3cret)) fun t =>
    t.b == s3cret && t.bv && t.k == s3cret && t.rsp == some 0x0000 := by decide
/-- V9: 2 wins over 4. -/
theorem test_save_faults : answers [0x6100] [0x1200] := by decide
/-- R75: KV need not be 1. -/
theorem test_rest : gives (exec .rest { State.reset with b := s3cret, bv := true }) fun t =>
    t.k == s3cret && t.kv && t.b == s3cret && t.rsp == some 0x0000 := by decide
/-- V9. -/
theorem test_rest_faults : answers [0x1000, 0x7000] [0x0000, 0x1500] := by decide
/-- R76, V8. -/
theorem test_ldr : answers [0x8BAA, 0xE100, 0xE200] [0x0000, 0x0000, 0x0008] ∧
    gives (exec (.ldr 10 0x1A) State.reset) fun t => t.r[10] == 0x1A && t.r[9] == 0 := by decide
/-- V7. -/
theorem test_ldr_faults : answers [0x8C00] [0x1300] := by decide
/-- R77: high byte first, then low byte. -/
theorem test_ldc : answers [0x9155, 0xE000] [0x0000, 0x0010] ∧
    gives (runWords [0x9164, 0x905C] State.reset) fun t => t.chk == 0x645C && t.cv == 3 := by decide
/-- V7. -/
theorem test_ldc_faults : answers [0x9200] [0x1300] := by decide
/-- R78. -/
theorem test_hdr : gives (exec .hdr loaded) fun t =>
    t.h == header10 && t.hv && t.k == ⟨0xE2003D80, 0xD145808A, 0xD93F2091⟩ && t.b == s3cret &&
      t.rv == 0 && t.cv == 0 && t.rsp == some 0x0000 := by decide +kernel
/-- V9: 5 wins over 6; and 6. -/
theorem test_hdr_faults : answers [0xA000] [0x1500] ∧
    answers [0x1000, 0x6000, 0x8001, 0xA000] [0x0000, 0x0000, 0x0000, 0x1600] := by decide
/-- R79. -/
theorem test_rdh : gives (runWords [0xB000, 0xBB00, 0xB900] built) fun t =>
    t.delivered == [0x0010, 0x005A, 0x0016] := by decide
/-- V9: 7; 3 wins over 7; 2 wins over 3 and 7. -/
theorem test_rdh_faults : answers [0xB000] [0x1700] ∧ answers [0xBC00] [0x1300] ∧
    answers [0xBC55] [0x1200] := by decide
/-- V8. -/
theorem test_rdk : gives (runWords [0xC000, 0xC300, 0xC400, 0xC700, 0xC800, 0xCB00] (keyed s3cret))
    fun t => t.delivered == [0x0002, 0x006A, 0x0073, 0x009F, 0x0044, 0x0021] := by decide
/-- V10, V7. -/
theorem test_rdk_faults : answers [0xC000] [0x1400] ∧ answers [0xC401] [0x1200] := by decide
/-- V8: WRK 5, 0x00 and its neighbours. -/
theorem test_wrk : gives (runWords [0xD500, 0xC500, 0xC600] (keyed s3cret)) fun t =>
    t.k == ⟨0x6AFADE02, 0x9FEA0073, 0x21F86344⟩ && t.delivered == [0x0000, 0x0000, 0x00EA] := by
  decide
/-- V10, V7: 3 is checked before 4. -/
theorem test_wrk_faults : answers [0xD4FF] [0x1400] ∧ answers [0xDCFF] [0x1300] := by decide
/-- P3: 3B before HDR; and 07 with a finished header. -/
theorem test_rds : gives (exec (.rds 0) loaded) (fun t => t.rsp == some 0x003B) ∧
    gives (exec (.rds 0) built) fun t => t.rsp == some 0x0007 := by decide
/-- V9. -/
theorem test_rds_faults : answers [0xEF00] [0x1300] := by decide
/-- R86, V9. -/
theorem test_reserved : answers [0xF000] [0x1100] ∧ answers [0xF123] [0x1100] := by decide

/-! ## Ports and reset -/

/-- R98: a reset cycle in the fault state, with a waiting response. -/
theorem test_reset_cycle :
    gives (step { faulted with
        rsp := some 0x1400
        k := s3cret
        kv := true
        inputs := [⟨true, true, 0, true⟩] }) (fun t => t == State.reset) := by decide

/-- R40: no word is accepted while a response waits. -/
theorem test_busy : gives (step { driven [presenting 0x1000] with rsp := some 0x0000 })
    (fun t => t.rsp == some 0x0000 && !t.kv && t.inputs == []) := by decide

/-- V10: the status bytes after reset, at the ports. -/
theorem test_port_run : gives (Sys2Proof.core.run 4 (driven (handshake [0xE000, 0xE200])))
    (fun t => t.delivered == [0x0000, 0x0000]) := by decide

/-! ## Assembler and pseudo-instructions (R48, R49) -/

/-- R48: its own examples, a raw word and a comment. -/
theorem test_assemble :
    assemble ["ADV 0x73".toList, "ADV 's'".toList, "LDR 10, 0x2F ; load".toList, "; only".toList,
        "RDH 11".toList, "HDR".toList, ".word 0xF123".toList] =
      some [0x2073, 0x2073, 0x8A2F, 0xBB00, 0xA000, 0xF123] ∧
    assemble ["LDR 12, 0x00".toList] = none ∧ assemble ["adv 0x73".toList] = none := by decide

/-- V5, R49: a text is sent as its UTF-8 bytes. -/
theorem test_pseudo_text : utf8Bytes "é" = [0xC3, 0xA9] ∧
    pseudoKeyText "a" = [.seed, .adv 0x61, .save] := by decide +kernel

/-- R49. -/
theorem test_pseudo_words :
    (pseudoMkhdr random10 0x645C).map encode =
      [0x8010, 0x8111, 0x8212, 0x8313, 0x8414, 0x8515, 0x8616, 0x8717, 0x8818, 0x8919, 0x8A1A,
        0x8B1B, 0x905C, 0x9164, 0xA000, 0xB000, 0xB100, 0xB200, 0xB300, 0xB400, 0xB500, 0xB600,
        0xB700, 0xB800, 0xB900, 0xBA00, 0xBB00] ∧
    (pseudoWrkw 1 0x12345678).map encode = [0xD478, 0xD556, 0xD634, 0xD712] ∧
    (pseudoRdkw 2).map encode = [0xC800, 0xC900, 0xCA00, 0xCB00] := by decide

/-! ## Witnesses: the hypotheses of each statement are met -/

theorem witness_ResetClearsFlagsAndFaultRecord :
    (driven [⟨true, false, 0, false⟩]).inputs = [⟨true, false, 0, false⟩] := rfl

theorem witness_StepRunsDecodedCommand :
    (driven [presenting 0x1000]).inputs = presenting 0x1000 :: [] ∧
      (presenting 0x1000).rst = false ∧ (presenting 0x1000).cmdValid = true ∧
      (driven [presenting 0x1000]).rsp = none ∧ decode (presenting 0x1000).cmd = .ok .seed := by
  decide

theorem witness_StepFaultsOnIllegalWord :
    (presenting 0xBC55).rst = false ∧ (presenting 0xBC55).cmdValid = true ∧
      decode (presenting 0xBC55).cmd = .error .reservedField ∧
      (driven [presenting 0xBC55]).rsp = none ∧ (driven [presenting 0xBC55]).err = false ∧
      { faulted with inputs := [presenting 0xBC55] }.rsp = none ∧
      { faulted with inputs := [presenting 0xBC55] }.err = true := by decide

theorem witness_PortCyclesWithoutCommand :
    State.reset.inputs = [] ∧ taking.rst = false ∧ taking.rspReady = true ∧
      taking.cmdValid = false ∧ (presenting 0x1000).rspReady = false ∧
      { driven [taking] with rsp := some 0x0012 }.rsp = some 0x0012 ∧
      (driven [taking]).rsp = none := by decide

theorem witness_NopChangesNothing :
    State.reset.err = false ∧ faulted.err = true ∧
      0x0001 ≤ (0x0001 : CmdWord).toNat ∧ (0x0FFF : CmdWord).toNat ≤ 0x0FFF := by decide

theorem witness_SeedLoadsSeedConstants :
    State.reset.err = false ∧ ((1 : BitVec 4) ≠ 0 ∨ (0 : Byte) ≠ 0) ∧
      ((0 : BitVec 4) ≠ 0 ∨ (0xFF : Byte) ≠ 0) := by decide

/-- ADV, KSB, ENC, DEC and SAVE: K valid, K not valid, and the states of the examples. -/
theorem witness_key_commands :
    (keyed seedState).err = false ∧ (keyed seedState).kv = true ∧ (keyed seedState).rsp = none ∧
      (keyed seedState).k = ⟨0x12345678, 0x23456789, 0x34567890⟩ ∧
      (keyed s3cret).kv = true ∧ (keyed s3cret).k = initState [0x73, 0x33, 0x63, 0x72, 0x65, 0x74] ∧
      State.reset.err = false ∧ State.reset.kv = false ∧ (15 : BitVec 4) ≠ 0 := by decide +kernel

theorem witness_RestCopiesBaseToKey :
    loaded.err = false ∧ loaded.bv = true ∧ loaded.rsp = none ∧ State.reset.bv = false ∧
      ((1 : BitVec 4) ≠ 0 ∨ (0 : Byte) ≠ 0) := by decide

/-- LDR, RDH, RDK and WRK: the index at the edges of its range. -/
theorem witness_byte_index : (0 : BitVec 4).toNat ≤ 11 ∧ (11 : BitVec 4).toNat ≤ 11 ∧
    11 < (12 : BitVec 4).toNat ∧ 11 < (15 : BitVec 4).toNat ∧
    (11 : BitVec 4).toNat = (11 : Fin 12).val ∧ (0 : BitVec 4).toNat = (0 : Fin 12).val ∧
    (1 : Byte) ≠ 0 := by decide

theorem witness_LdcLoadsCheckByte : State.reset.err = false ∧ State.reset.rsp = none ∧
    (0 : BitVec 4).toNat = 0 ∧ (1 : BitVec 4).toNat = 1 ∧ 1 < (2 : BitVec 4).toNat := by decide

/-- HDR: ready with the state of the example; no base key; and each input missing in turn. -/
theorem witness_HdrBuildsHeader :
    loaded.err = false ∧ loaded.bv = true ∧ loaded.rv = 0xFFF ∧ loaded.cv = 0b11 ∧
      loaded.b = initState [0x73, 0x33, 0x63, 0x72, 0x65, 0x74] ∧
      loaded.r = #v[0x10, 0x11, 0x12, 0x13, 0x14, 0x15, 0x16, 0x17, 0x18, 0x19, 0x1A, 0x1B] ∧
      loaded.chk = 0x645C ∧ State.reset.bv = false ∧
      { loaded with rv := 0x7FF }.rv ≠ 0xFFF ∧ { loaded with cv := 0b01 }.cv ≠ 0b11 := by
  decide +kernel

theorem witness_RdhAnswersHeaderByte : built.err = false ∧ built.hv = true ∧
    built.h = #v[0x10, 0xA5, 0x30, 0x27, 0x56, 0x06, 0x9A, 0xCA, 0x99, 0x16, 0x3A, 0x5A] ∧
    State.reset.hv = false := by decide

theorem witness_RdkAnswersKeyByte : (keyed s3cret).err = false ∧ (keyed s3cret).kv = true ∧
    (keyed s3cret).k = ⟨0x6AFADE02, 0x9FEAA373, 0x21F86344⟩ ∧ State.reset.kv = false := by decide

theorem witness_WrkWritesKeyByte : (keyed seedState).err = false ∧ (keyed seedState).kv = true ∧
    (keyed seedState).k = seedState ∧ (keyed seedState).rsp = none ∧ State.reset.kv = false := by
  decide

theorem witness_RdsAnswersStatusByte : (0 : BitVec 4).toNat = 0 ∧ (1 : BitVec 4).toNat = 1 ∧
    (2 : BitVec 4).toNat = 2 ∧ 2 < (3 : BitVec 4).toNat ∧
    { loaded with rv := 0, cv := 0 }.hv = false ∧ loaded.kv = true ∧ loaded.bv = true ∧
    loaded.hv = false ∧ loaded.rv = 0xFFF ∧ loaded.cv = 0b11 ∧
    built.kv = true ∧ built.bv = true ∧ built.hv = true ∧ built.rv = 0 ∧ built.cv = 0 := by decide

theorem witness_EncodeOfDecode : decode 0xDBFF = .ok (.wrk 11 0xFF) := by decide

theorem witness_LegalWordsMatchOpcodeTable : (⟨0x2000, 0xFF00, 0⟩ : OpcodeRow) ∈ opcodeRows ∧
    (0x2073 : CmdWord) &&& 0xFF00 = 0x2000 := by decide

/-- Every code, at the edge where the next would apply, and none. -/
theorem witness_LowestApplicableFaultIsReported :
    State.reset.err = false ∧ State.reset.hv = false ∧ State.reset.bv = false ∧
      lowestFault 0xF000 State.reset = some 1 ∧ lowestFault 0xBC55 State.reset = some 2 ∧
      lowestFault 0xCC00 State.reset = some 3 ∧ lowestFault 0xCB00 State.reset = some 4 ∧
      lowestFault 0xA000 State.reset = some 5 ∧
      lowestFault 0xA000 { loaded with cv := 0b10 } = some 6 ∧
      lowestFault 0xBB00 State.reset = some 7 ∧ lowestFault 0xA000 loaded = none := by decide

theorem witness_FaultChangesOnlyTheRecord :
    gives (accept 0xF000 State.reset) fun t => t.err && t.ecode == 1 := by decide

theorem witness_FaultedBlockExecutesNothing : faulted.err = true ∧ faulted.rsp = none := by decide

/-- Flags that are set, and commands that leave or clear them. -/
theorem witness_OnlyResetClearsValidFlags :
    loaded.kv = true ∧ loaded.bv = true ∧ built.hv = true ∧ faulted.err = true ∧
      gives (accept 0x0000 loaded) (fun t => t.rv == 0xFFF) ∧ decode 0x0000 ≠ .ok .hdr ∧
      loaded.rv.getLsbD 11 = true ∧ loaded.cv.getLsbD 1 = true := by decide

theorem witness_RegistersChangeOnlyByTheirWriters :
    gives (exec (.enc 0x48) (keyed s3cret)) (fun t => !t.err) ∧ writesK .ksb = false := by
  decide +kernel

theorem witness_ReadCommandsHaveNoSideEffect :
    gives (exec .ksb (keyed s3cret)) (fun t => !t.err) ∧ gives (exec (.rdh 11) built) (fun t => !t.err)
      ∧ gives (exec (.rdk 11) (keyed s3cret)) (fun t => !t.err) ∧
      gives (exec (.rds 2) State.reset) (fun t => !t.err) := by decide

/-- A state that has a base key, a header and a waiting response. -/
def waiting : State :=
  { built with rsp := some 0x0012, delivered := [0x1400], inputs := [taking] }

theorem witness_inv : waiting.Inv where
  faultRecorded := by decide
  codeLegal := by decide
  baseNeedsKey := by decide
  headerNeedsBase := by decide
  waitingOk := by decide
  deliveredOk := by
    intro w hw
    rw [show waiting.delivered = [0x1400] from rfl, List.mem_singleton] at hw
    subst hw
    decide

theorem witness_OneLegalResponsePerWord :
    waiting.bv = true ∧ gives (accept 0xC000 waiting) (fun t => t.rsp == some 0x0002) ∧
      (∀ i, decode 0xF000 = .ok i → returnsByte i = false) := by
  refine ⟨rfl, by decide, fun i h => ?_⟩
  rw [show decode 0xF000 = .error .reservedOpcode from by decide] at h
  cases h

theorem witness_StepKeepsInvariant :
    waiting.Inv ∧ gives (step waiting) (fun t => t.delivered == [0x1400, 0x0012]) :=
  ⟨witness_inv, by decide⟩

/-- The two corners of R57 (V2, V1). -/
theorem witness_K1UpdateIsExactModulo :
    slice 0 8 (advance ⟨0x12345678, 0xFFFFFFFF, 0x34567890⟩ 0x01).k0 = 0xCE ∧
      slice 0 8 (advance ⟨0, 0, 0⟩ 0).k0 = 0 := by decide +kernel

theorem witness_KeystreamByteReadingsAgree :
    slice 2 14 (0x34567890 : Word) = slice 2 14 (0x00007893 : Word) ∧
      (slice 0 16 (0xFFFF0000 : Word)).toNat ≤ 3 ∧ (slice 0 16 (0x00000003 : Word)).toNat ≤ 3 ∧
      0xFFFC ≤ (slice 0 16 (0x0000FFFC : Word)).toNat ∧
      0xFFFC ≤ (slice 0 16 (0xFFFFFFFF : Word)).toNat ∧
      slice 0 16 (0x00000100 : Word) = 0x0100 ∧ slice 0 16 (0x00008000 : Word) = 0x8000 := by decide

theorem witness_DecryptInvertsEncrypt :
    encryptByte s3cret 0x48 = (⟨0x96635250, 0x521DBED0, 0xF4F54D32⟩, 0xD2) := by decide +kernel

/-- Both sides of R61: keystream byte 0 and not 0 (V3). -/
theorem witness_EncryptAndDecryptCoincideOnlyAtZero :
    keystreamByte ⟨0, 0, 0⟩ = 0x00 ∧ keystreamByte s3cret = 0x9A := by decide

/-- Two sets of random bytes that differ in the last two only. -/
theorem witness_HeaderIsTwoPass : random10.set 11 0 ≠ random10 ∧
    ∀ i : Fin 12, i.val < 10 → ((random10.set 11 0).set 10 0)[i] = random10[i] := by decide

/-- INIT, KEY, ENCS, DECS, MKHDR, RDKW, WRKW. -/
theorem witness_sequences : State.reset.err = false ∧ State.reset.rsp = none ∧
    loaded.err = false ∧ loaded.rsp = none ∧ loaded.kv = true ∧ loaded.bv = true ∧
    gives (exec .nop loaded) (fun t => t.b == s3cret && t.bv) ∧ Instr.nop ≠ .save := by decide

theorem witness_BaseKeySurvivesWithoutSave :
    BaseKeyOf [] { keyed seedState with b := seedState, bv := true } ∧ noSave [.ksb] ∧
      (∀ i ∈ [Instr.ksb], i.wellFormed = true) ∧
      gives (runCommands [.ksb] { keyed seedState with b := seedState, bv := true })
        (fun t => !t.err) := by
  refine ⟨⟨rfl, rfl⟩, ?_, by decide, by decide⟩
  intro i hi
  rw [List.mem_singleton] at hi
  subst hi
  decide

/-- Two different states that cannot be told apart. -/
theorem witness_InvalidRegistersAreUnobservable :
    State.reset ≠ { State.reset with k := s3cret, chk := 0x645C, h := header10 } ∧
      Agree State.reset { State.reset with k := s3cret, chk := 0x645C, h := header10 } :=
  ⟨by decide, ⟨rfl, rfl, rfl, rfl, rfl, rfl, rfl, rfl, rfl, rfl, by decide, by decide, by decide,
    by decide, by decide, by decide⟩⟩

theorem witness_PortRunIsCommandRun : (driven (handshake [0x1000, 0x3000])).rsp = none ∧
    (driven (handshake [0x1000, 0x3000])).inputs = handshake [0x1000, 0x3000] ++ [] := by decide

theorem witness_ReaderRecoversCheckValueAndPayload : State.reset.err = false ∧
    State.reset.rsp = none ∧ (keyed s3cret).err = false ∧ (keyed s3cret).rsp = none := by decide

end Sys2Proof.Tests
end

/-! ## The response word

What each field of the response word holds (R43), which response words are legal, and that an
accepted word is answered by one that carries the fault record (R40, R43). -/

namespace Sys2Proof.Machine

section ResponseFields

variable (err : Bool) (ecode : BitVec 4) (data : Byte)

/-- Field ECODE of the response word (R43). -/
@[simp] theorem responseWord_ecode : slice 8 4 (responseWord err ecode data) = ecode :=
  idxField_packWord ((0 : BitVec 3) ++ BitVec.ofBool err) ecode data

/-- Field DATA of the response word (R43). -/
@[simp] theorem responseWord_data : slice 0 8 (responseWord err ecode data) = data :=
  immField_packWord ((0 : BitVec 3) ++ BitVec.ofBool err) ecode data

/-- The top four bits of the response word: three zeros and field ERR (R43). -/
theorem responseWord_top :
    slice 12 4 (responseWord err ecode data) = (0 : BitVec 3) ++ BitVec.ofBool err :=
  opField_packWord ((0 : BitVec 3) ++ BitVec.ofBool err) ecode data

/-- Field ERR of the response word (R43). -/
@[simp] theorem responseWord_err : (responseWord err ecode data)[12] = err := by
  have h := congrArg (BitVec.getLsbD · 0) (responseWord_top err ecode data)
  cases err <;> simpa using h

/-- The three bits above ERR are zero (R43). -/
@[simp] theorem responseWord_reserved : slice 13 3 (responseWord err ecode data) = 0 := by
  calc slice 13 3 (responseWord err ecode data)
      = slice 1 3 (slice 12 4 (responseWord err ecode data)) :=
        by ext i hi; simp [show 1 + i < 4 by omega, ← Nat.add_assoc]
    _ = slice 1 3 ((0 : BitVec 3) ++ BitVec.ofBool err) := by rw [responseWord_top]
    _ = 0 := by cases err <;> rfl

end ResponseFields

/-- A success response with any data has the shape `0x00dd` (R43). -/
theorem legalResponse_success (data : Byte) : legalResponse (responseWord false 0 data) = true := by
  simp [legalResponse]

/-- A fault response with a code from 1 to 7 and no data has the shape `0x1c00` (R43). -/
theorem legalResponse_fault {ecode : BitVec 4} (hpos : ecode ≠ 0) (hle : ecode.toNat ≤ 7) :
    legalResponse (responseWord true ecode 0) = true := by
  have : 1 ≤ ecode.toNat := Nat.pos_of_ne_zero fun h => hpos (BitVec.eq_of_toNat_eq h)
  simp [legalResponse, this, hle]

/-- No fault has code 0 (R88). -/
theorem faultBits_ne_zero (c : FaultCode) : faultBits c ≠ 0 := by cases c <;> decide

/-- Codes 8 to 15 are never produced (R88). -/
theorem faultBits_le_seven (c : FaultCode) : (faultBits c).toNat ≤ 7 := by cases c <;> decide

/-- While no fault is recorded ECODE is 0 (R22). -/
theorem State.Inv.ecode_of_live {s : State} (h : s.Inv) (he : s.err = false) : s.ecode = 0 := by
  by_contra hc
  simp [h.faultRecorded.2 hc] at he

/-- In the fault state no command executes (R91). -/
theorem exec_of_err {s : State} (he : s.err = true) (i : Instr) :
    exec i s = .next (answerRecorded s) := by
  cases i <;> exact command_of_err he _

/-- In the fault state every word, legal or not, has the recorded answer (R91). -/
theorem accept_of_err {s : State} (he : s.err = true) (w : CmdWord) :
    accept w s = .next (answerRecorded s) := by
  cases hd : decode w with
  | error c => exact (accept_of_error hd s).trans (command_of_err he _)
  | ok i => exact (accept_of_ok hd s).trans (exec_of_err he i)

/-- Every word in every state: the recorded answer in the fault state, else a fault or the effect
of the command the word spells (R45, R90, R91). -/
theorem accept_cases (w : CmdWord) (s : State) :
    ∃ t, accept w s = .next t ∧
      ((s.err = true ∧ t = answerRecorded s) ∨
        (s.err = false ∧ ((∃ c, t = raiseFault c s) ∨ ∃ i, decode w = .ok i ∧ Effect i s t))) := by
  cases he : s.err with
  | true =>
    exact ⟨_, accept_of_err he w, .inl ⟨rfl, rfl⟩⟩
  | false =>
    cases hd : decode w with
    | error c =>
      exact ⟨_, (accept_of_error hd s).trans (command_of_live he _), .inr ⟨rfl, .inl ⟨c, rfl⟩⟩⟩
    | ok i =>
      obtain ⟨t, ht, heff | hfault⟩ := exec_of_live i he
      · exact ⟨t, (accept_of_ok hd s).trans ht, .inr ⟨rfl, .inr ⟨i, rfl, heff⟩⟩⟩
      · exact ⟨t, (accept_of_ok hd s).trans ht, .inr ⟨rfl, .inl hfault⟩⟩

/-- A command that meets no fault ends in `respond`, leaves the fault record and what the host has
received, and gives the data 0 unless it returns a byte (R43). -/
theorem Effect.eq_respond {i : Instr} {s t : State} (h : Effect i s t) :
    ∃ (d : Byte) (u : State), t = respond d u ∧ u.err = s.err ∧ u.ecode = s.ecode ∧
      u.delivered = s.delivered ∧ (returnsByte i = false → d = 0) := by
  cases h <;> exact ⟨_, _, rfl, rfl, rfl, rfl, by simp [returnsByte]⟩

/-- The word `x` waits in `t` as the one response to a word accepted in `s`: nothing else was
delivered, `x` has a legal shape and carries the fault record (R43). -/
structure Answers (s t : State) (x : RspWord) : Prop where
  waits : t.rsp = some x
  delivered : t.delivered = s.delivered
  legal : legalResponse x = true
  err : x.getLsbD 12 = t.err
  ecode : slice 8 4 x = t.ecode

/-- A taken fault is answered by its code (R90). -/
theorem answers_raiseFault (c : FaultCode) (s : State) :
    Answers s (raiseFault c s) (responseWord true (faultBits c) 0) where
  waits := rfl
  delivered := rfl
  legal := legalResponse_fault (faultBits_ne_zero c) (faultBits_le_seven c)
  err := by simp
  ecode := by simp

/-- In the fault state a word is answered by the recorded code (R91). -/
theorem answers_answerRecorded {s : State} (h : s.Inv) (he : s.err = true) :
    Answers s (answerRecorded s) (responseWord true s.ecode 0) where
  waits := rfl
  delivered := rfl
  legal := legalResponse_fault (h.faultRecorded.1 he) h.codeLegal
  err := by simp [he]
  ecode := by simp

/-- A command that meets no fault is answered by success and its data (R9, R43). -/
theorem Effect.answers {i : Instr} {s t : State} (h : Effect i s t) (hs : s.Inv)
    (he : s.err = false) :
    ∃ d : Byte, Answers s t (responseWord false 0 d) ∧ (returnsByte i = false → d = 0) := by
  obtain ⟨d, u, rfl, herr, hcode, hdel, hdata⟩ := h.eq_respond
  refine ⟨d, ⟨rfl, hdel, legalResponse_success d, ?_, ?_⟩, hdata⟩
  · simp [herr, he]
  · simp [hcode, hs.ecode_of_live he]

/-- A response reports no fault exactly when the fault record it carries is clear (R109). -/
theorem Answers.clean_iff {s t : State} {x : RspWord} (h : Answers s t x) :
    cleanResponse x = true ↔ t.err = false := by
  rw [cleanResponse, h.err, Bool.not_eq_true']

/-- Settles O34: an accepted word ends in the recorded answer, a fault or its command's effect, and
each leaves one legal response that carries the fault record. -/
theorem oneLegalResponsePerWord : Obligations.OneLegalResponsePerWord := by
  intro s w hs
  obtain ⟨t, ht, hcases⟩ := accept_cases w s
  suffices h : ∃ x, Answers s t x ∧
      ((∀ i, decode w = .ok i → returnsByte i = false) → slice 0 8 x = 0) by
    obtain ⟨x, hx, hdata⟩ := h
    exact ⟨t, x, ht, hx.waits, hx.delivered, hx.legal, hx.err, hx.ecode, hx.clean_iff, hdata⟩
  obtain ⟨he, rfl⟩ | ⟨he, ⟨c, rfl⟩ | ⟨i, hi, heff⟩⟩ := hcases
  · exact ⟨_, answers_answerRecorded hs he, fun _ => responseWord_data _ _ _⟩
  · exact ⟨_, answers_raiseFault c s, fun _ => responseWord_data _ _ _⟩
  · obtain ⟨d, hd, hdata⟩ := heff.answers hs he
    exact ⟨_, hd, fun hno => (responseWord_data _ _ _).trans (hdata (hno i hi))⟩

end Sys2Proof.Machine

/-! ## The stream cipher commands

Words under OR as the spec writes them (R41, R43), the words of a command form (R42, R45), what a
command with a requirement answers (R9, R90), then SEED, ADV, KSB, ENC and DEC, one lemma each, and
the K1 update (40_stream_cipher.md). -/

namespace Sys2Proof.Machine

/-- A word as the spec writes one: opcode, `idx << 8` and `imm` under OR (R41, R42). -/
theorem packWord_eq_or (op idx : BitVec 4) (imm : Byte) :
    packWord op idx imm = packWord op 0 0 ||| (idx.setWidth 16 <<< 8) ||| imm.setWidth 16 := by
  apply BitVec.eq_of_getLsbD_eq
  intro i hi
  have himm : 8 ≤ i → imm.getLsbD i = false := BitVec.getLsbD_of_ge _ _
  have hidx : 12 ≤ i → idx.getLsbD (i - 8) = false := fun h => BitVec.getLsbD_of_ge _ _ (by omega)
  simp only [packWord, BitVec.getLsbD_or, BitVec.getLsbD_append, BitVec.getLsbD_shiftLeft,
    BitVec.getLsbD_setWidth]
  grind

/-- The word of a command with a byte operand only (R42). -/
theorem packWord_zero_idx (op : BitVec 4) (imm : Byte) :
    packWord op 0 imm = packWord op 0 0 ||| imm.setWidth 16 := by
  simpa using packWord_eq_or op 0 imm

/-- A success response is its data byte, `0x00dd` (R43). -/
theorem responseWord_success (d : Byte) : responseWord false 0 d = okResponse d :=
  (packWord_zero_idx 0 d).trans BitVec.zero_or

/-- A fault response is `0x1000 OR (c << 8)` (R43). -/
theorem responseWord_fault (c : BitVec 4) :
    responseWord true c 0 = 0x1000 ||| (c.setWidth 16 <<< 8) :=
  (packWord_eq_or 1 c 0).trans BitVec.or_zero

/-- `respond` is the answer the statements name (R9). -/
theorem respond_eq_answered (d : Byte) (s : State) : respond d s = answered d s := by
  rw [respond, responseWord_success, answered]

/-- The delivery of an answer (R40). -/
theorem deliver_answered (d : Byte) (s : State) :
    deliver (answered d s) =
      { s with rsp := none, delivered := s.delivered ++ [okResponse d] } := rfl

/-- Taking a fault is the three writes of R90. -/
theorem raiseFault_eq_faultedAs (c : FaultCode) (s : State) :
    raiseFault c s = faultedAs (faultBits c) s := by
  rw [raiseFault, responseWord_fault, faultedAs]

/-- A word that spells no command is answered by its decode fault (R45, R90). -/
theorem accept_of_decode_error {w : CmdWord} {c : FaultCode} {s : State} (he : s.err = false)
    (h : decode w = .error c) : accept w s = .next (faultedAs (faultBits c) s) := by
  rw [accept_of_error h, command_of_live he, raiseFault_eq_faultedAs]

section CommandForms

variable {op : BitVec 4}

/-- A nonzero field in the word of a command with no operand is Fault(2) (R42). -/
theorem accept_bare_of_field_ne_zero {i : Instr}
    (hform : ∀ idx imm, decodeFields op idx imm = decodeBare i idx imm)
    {s : State} (he : s.err = false) {idx : BitVec 4} {imm : Byte} (hne : idx ≠ 0 ∨ imm ≠ 0) :
    accept (packWord op idx imm) s = .next (faultedAs 2 s) :=
  accept_of_decode_error (c := .reservedField) he <| by
    rw [decode_packWord, hform, decodeBare, if_neg (by tauto)]

variable {c : Byte → Instr} (hform : ∀ idx imm, decodeFields op idx imm = decodeByte c idx imm)
include hform

/-- The word `op << 12` OR `imm` is the command with byte operand `imm` (R42). -/
theorem decode_byte (imm : Byte) : decode (packWord op 0 0 ||| imm.setWidth 16) = .ok (c imm) := by
  rw [← packWord_zero_idx, decode_packWord, hform, decodeByte, if_pos rfl]

/-- A nonzero `idx` in the word of a command with a byte operand only is Fault(2) (R42). -/
theorem accept_byte_of_idx_ne_zero {s : State} (he : s.err = false) {idx : BitVec 4}
    (hne : idx ≠ 0) (imm : Byte) :
    accept (packWord op idx imm) s = .next (faultedAs 2 s) :=
  accept_of_decode_error (c := .reservedField) he <| by
    rw [decode_packWord, hform, decodeByte, if_neg hne]

end CommandForms

section Requirement

variable {p : Bool} {s : State} (he : s.err = false)
include he

/-- A live command whose requirement holds answers its data and has its effect (R9). -/
theorem command_require_respond (hp : p = true) (c : FaultCode) (d : Byte) (body : State) :
    command s (require p c s (respond d body)) = .next (answered d body) := by
  rw [command_of_live he, require_of_true hp, respond_eq_answered]

/-- A live command whose requirement fails raises that fault (R9, R90). -/
theorem command_require_fault (hp : p = false) (c : FaultCode) (body : State) :
    command s (require p c s body) = .next (faultedAs (faultBits c) s) := by
  rw [command_of_live he, require_of_false hp, raiseFault_eq_faultedAs]

end Requirement

section Commands

variable {s : State} (he : s.err = false)
include he

/-- SEED (R62). -/
theorem exec_seed :
    exec .seed s = .next (answered 0 { s with k := seedState, kv := true }) := by
  rw [exec, execSeed, command_of_live he, respond_eq_answered]

variable (hkv : s.kv = true)
include hkv

/-- ADV while K holds a value (R63). -/
theorem exec_adv (imm : Byte) :
    exec (.adv imm) s = .next (answered 0 { s with k := advance s.k imm }) :=
  command_require_respond he hkv ..

/-- KSB while K holds a value (R64). -/
theorem exec_ksb : exec .ksb s = .next (answered (keystreamByte s.k) s) :=
  command_require_respond he hkv ..

/-- ENC while K holds a value (R65). -/
theorem exec_enc (imm : Byte) :
    exec (.enc imm) s =
      .next (answered (imm ^^^ keystreamByte s.k) { s with k := advance s.k imm }) :=
  command_require_respond he hkv ..

/-- DEC while K holds a value (R66). -/
theorem exec_dec (imm : Byte) :
    exec (.dec imm) s =
      .next (answered (imm ^^^ keystreamByte s.k)
        { s with k := advance s.k (imm ^^^ keystreamByte s.k) }) :=
  command_require_respond he hkv ..

/-- KSB then ADV leaves K as ENC does and answers the keystream byte (R65). -/
theorem runCommands_ksb_adv (hrsp : s.rsp = none) (imm : Byte) :
    runCommands [.ksb, .adv imm] s = .next
      { s with
        k := advance s.k imm
        delivered := s.delivered ++ [okResponse (keystreamByte s.k), okResponse 0] } := by
  have hdec : decode (encode (.adv imm)) = .ok (.adv imm) := decode_packWord 2 0 imm
  rw [runCommands_cons rfl (exec_ksb he hkv), deliver_answered,
    runCommands_cons hdec (exec_adv (by exact he) (by exact hkv) imm), deliver_answered, hrsp]
  simp [runCommands, runWords]

end Commands

/-- The keystream byte under the password s3cret (R64). -/
theorem keystreamByte_s3cret :
    keystreamByte (initState [0x73, 0x33, 0x63, 0x72, 0x65, 0x74]) = 0x9A := by decide +kernel

/-- Settles O8: SEED has no requirement, so KV plays no part; it has no operand. -/
theorem seedLoadsSeedConstants : Obligations.SeedLoadsSeedConstants :=
  ⟨rfl, rfl, rfl, fun _ he =>
    ⟨exec_seed he, fun _ _ hne => accept_bare_of_field_ne_zero (fun _ _ => rfl) he hne⟩⟩

/-- Settles O9: ADV requires K and has a byte operand only. -/
theorem advAdvancesKey : Obligations.AdvAdvancesKey := by
  intro s imm he
  refine ⟨packWord_zero_idx 2 imm, decode_byte (op := 2) (fun _ _ => rfl) imm,
    fun hkv => exec_adv he hkv imm, fun hkv => command_require_fault he hkv .keyInvalid _,
    fun idx hne => accept_byte_of_idx_ne_zero (fun _ _ => rfl) he hne imm, fun hkv hk => ?_⟩
  have hadv : advance ⟨0x12345678, 0x23456789, 0x34567890⟩ 0x73 =
      ⟨0x97C0EDDE, 0xF5682604, 0x3DECC3AF⟩ := by decide +kernel
  rw [accept_of_ok (i := .adv 0x73) rfl, exec_adv he hkv, hk, hadv]
  rfl

/-- Settles O10: KSB leaves K and KV, so the second KSB meets the same case of `exec_ksb`. -/
theorem ksbAnswersKeystreamByte : Obligations.KsbAnswersKeystreamByte := by
  refine ⟨rfl, rfl, fun s he =>
    ⟨fun hkv => ⟨exec_ksb he hkv, ?_⟩,
      fun hkv => command_require_fault he hkv .keyInvalid _,
      fun _ _ hne => accept_bare_of_field_ne_zero (fun _ _ => rfl) he hne,
      fun hkv hk => ?_, fun hkv hk => ?_⟩⟩
  · rw [deliver_answered, exec_ksb (by exact he) (by exact hkv)]
  · rw [exec_ksb he hkv, show keystreamByte s.k = 0xAB by rw [hk]; decide]; rfl
  · rw [exec_ksb he hkv, show keystreamByte s.k = 0x9A from hk ▸ keystreamByte_s3cret]; rfl

/-- Settles O11: ENC requires K and has a byte operand only; the two-command form is
`runCommands_ksb_adv`. -/
theorem encEncryptsAndAdvances : Obligations.EncEncryptsAndAdvances := by
  intro s imm he
  refine ⟨packWord_zero_idx 4 imm, decode_byte (op := 4) (fun _ _ => rfl) imm,
    fun hkv => exec_enc he hkv imm, fun hkv => command_require_fault he hkv .keyInvalid _,
    fun idx hne => accept_byte_of_idx_ne_zero (fun _ _ => rfl) he hne imm,
    fun hkv hrsp => runCommands_ksb_adv he hkv hrsp imm, fun hkv hk => ?_⟩
  rw [accept_of_ok (i := .enc 0x48) rfl, exec_enc he hkv, hk, keystreamByte_s3cret]
  rfl

/-- Settles O12: DEC requires K and has a byte operand only; in the example 0xD2 decrypts to 0x48,
the byte K advances by. -/
theorem decDecryptsAndAdvancesByPlaintext : Obligations.DecDecryptsAndAdvancesByPlaintext := by
  intro s imm he
  refine ⟨packWord_zero_idx 5 imm, decode_byte (op := 5) (fun _ _ => rfl) imm,
    fun hkv => exec_dec he hkv imm, fun hkv => command_require_fault he hkv .keyInvalid _,
    fun idx hne => accept_byte_of_idx_ne_zero (fun _ _ => rfl) he hne imm, fun hkv hk => ?_⟩
  rw [accept_of_ok (i := .dec 0xD2) rfl, exec_dec he hkv, hk, keystreamByte_s3cret]
  rfl

/-- The new K1 over the integers: sum, product and increment are each cut to 32 bits, which is one
cut of the exact value (R57). -/
theorem advance_k1_toNat (k : Keys) (b : Byte) :
    (advance k b).k1.toNat =
      ((k.k1.toNat + (advance k b).k0.toNat % 256) * 134775813 + 1) % 2 ^ 32 := by
  rw [advance_k1, BitVec.toNat_add, BitVec.toNat_mul, BitVec.toNat_add, BitVec.toNat_setWidth,
    slice_toNat, k1Multiplier_toNat, Nat.pow_zero, Nat.div_one, show (1 : Word).toNat = 1 from rfl]
  omega

/-- Settles O37: the exact value by `advance_k1_toNat`; in the corner cases both terms of the sum
are known. -/
theorem k1UpdateIsExactModulo : Obligations.K1UpdateIsExactModulo := by
  intro k b
  have hk := k.k1.isLt
  refine ⟨by omega, advance_k1_toNat k b, fun hk1 hlow => ?_, fun hk1 hlow => ?_⟩
  · rw [advance_k1, hk1, hlow]; decide
  · rw [advance_k1, hk1, hlow]; decide

end Sys2Proof.Machine

/-! ## The entry header codec commands

The words of the two command forms with an index (R42, R45), what a command with an index answers
(R9, R88), then SAVE, REST, LDR, LDC, HDR and RDH, one lemma each, and the sequences `INIT`, `KEY`,
`ENCS` and `LDCW` their worked examples run (R49; 41_header_codec.md). -/

namespace Sys2Proof.Machine

/-- The word of a command with an index only (R42). -/
theorem packWord_zero_imm (op idx : BitVec 4) :
    packWord op idx 0 = packWord op 0 0 ||| (idx.setWidth 16 <<< 8) :=
  (packWord_eq_or op idx 0).trans BitVec.or_zero

section IndexForms

variable {op : BitVec 4} {top : Nat} {idx : BitVec 4}

section IndexByte

variable {c : BitVec 4 → Byte → Instr}
  (hform : ∀ idx imm, decodeFields op idx imm = decodeIndexByte c top idx imm)
include hform

/-- An index in range and a byte operand spell the command (R42). -/
theorem decode_index_byte (hidx : idx.toNat ≤ top) (imm : Byte) :
    decode (packWord op idx imm) = .ok (c idx imm) := by
  rw [decode_packWord, hform, decodeIndexByte, if_neg (by omega)]

/-- An index out of range in the word of a command with both operands is Fault(3) (R42). -/
theorem accept_index_byte_of_top_lt {s : State} (he : s.err = false) (hidx : top < idx.toNat)
    (imm : Byte) : accept (packWord op idx imm) s = .next (faultedAs 3 s) :=
  accept_of_decode_error (c := .indexRange) he <| by
    rw [decode_packWord, hform, decodeIndexByte, if_pos hidx]

end IndexByte

variable {c : BitVec 4 → Instr}
  (hform : ∀ idx imm, decodeFields op idx imm = decodeIndex c top idx imm)
include hform

/-- An index in range and a zero byte spell the command (R42). -/
theorem decode_index (hidx : idx.toNat ≤ top) : decode (packWord op idx 0) = .ok (c idx) := by
  rw [decode_packWord, hform, decodeIndex, if_neg (by simp), if_neg (by omega)]

variable {s : State} (he : s.err = false)
include he

/-- An index out of range in the word of a command with an index only is Fault(3) (R42, R45). -/
theorem accept_index_of_top_lt (hidx : top < idx.toNat) :
    accept (packWord op idx 0) s = .next (faultedAs 3 s) :=
  accept_of_decode_error (c := .indexRange) he <| by
    rw [decode_packWord, hform, decodeIndex, if_neg (by simp), if_pos hidx]

/-- A nonzero byte in the word of a command with an index only is Fault(2), in range or not (R45,
R89). -/
theorem accept_index_of_imm_ne_zero {imm : Byte} (himm : imm ≠ 0) (idx : BitVec 4) :
    accept (packWord op idx imm) s = .next (faultedAs 2 s) :=
  accept_of_decode_error (c := .reservedField) he <| by
    rw [decode_packWord, hform, decodeIndex, if_pos himm]

end IndexForms

section HeaderCommands

variable {s : State} (he : s.err = false)
include he

/-- A live command with no requirement answers its data and has its effect (R9). -/
theorem command_respond (d : Byte) (body : State) :
    command s (respond d body) = .next (answered d body) := by
  rw [command_of_live he, respond_eq_answered]

/-- A live command that raises a fault (R9, R90). -/
theorem command_raiseFault (c : FaultCode) :
    command s (raiseFault c s) = .next (faultedAs (faultBits c) s) := by
  rw [command_of_live he, raiseFault_eq_faultedAs]

/-- SAVE while K holds a value (R74). -/
theorem exec_save (hkv : s.kv = true) :
    exec .save s = .next (answered 0 { s with b := s.k, bv := true }) :=
  command_require_respond he hkv ..

/-- REST while B holds a value (R75). -/
theorem exec_rest (hbv : s.bv = true) :
    exec .rest s = .next (answered 0 { s with k := s.b, kv := true }) :=
  command_require_respond he hbv ..

/-- LDR at position `i` (R76). -/
theorem exec_ldr {idx : BitVec 4} {i : Fin 12} (hi : idx.toNat = i.val) (imm : Byte) :
    exec (.ldr idx imm) s =
      .next (answered 0 { s with r := s.r.set i imm, rv := markRandom s.rv i }) := by
  rw [exec, execLdr, byteIndex, indexIn_eq_some.2 hi]
  exact command_respond he ..

/-- LDR out of range (R76). -/
theorem exec_ldr_of_lt {idx : BitVec 4} (hidx : 11 < idx.toNat) (imm : Byte) :
    exec (.ldr idx imm) s = .next (faultedAs 3 s) := by
  rw [exec, execLdr, byteIndex, indexIn_eq_none.2 hidx]
  exact command_raiseFault he .indexRange

/-- LDC at half `i` of the check value (R77). -/
theorem exec_ldc {idx : BitVec 4} {i : Fin 2} (hi : idx.toNat = i.val) (imm : Byte) :
    exec (.ldc idx imm) s =
      .next (answered 0
        { s with chk := writeCheckByte s.chk i imm, cv := markCheck s.cv i }) := by
  rw [exec, execLdc, checkIndex, indexIn_eq_some.2 hi]
  exact command_respond he ..

/-- LDC out of range (R77). -/
theorem exec_ldc_of_lt {idx : BitVec 4} (hidx : 1 < idx.toNat) (imm : Byte) :
    exec (.ldc idx imm) s = .next (faultedAs 3 s) := by
  rw [exec, execLdc, checkIndex, indexIn_eq_none.2 hidx]
  exact command_raiseFault he .indexRange

/-- HDR with the base key and every header input (R78). -/
theorem exec_hdr (hbv : s.bv = true) (hrv : s.rv = 0xFFF) (hcv : s.cv = 0b11) :
    exec .hdr s = .next (answered 0
      { s with
        k := (buildHeader s.b s.r s.chk).1
        h := (buildHeader s.b s.r s.chk).2
        kv := true
        hv := true
        rv := 0
        cv := 0 }) := by
  have hready : (randomFull s.rv && checkFull s.cv) = true :=
    Bool.and_eq_true_iff.2 ⟨(randomFull_iff _).2 hrv, (checkFull_iff _).2 hcv⟩
  rw [exec, execHdr, require_of_true hbv, command_require_respond he hready]

/-- HDR with the base key while a header input is missing (R78). -/
theorem exec_hdr_of_missing (hbv : s.bv = true) (hmiss : s.rv ≠ 0xFFF ∨ s.cv ≠ 0b11) :
    exec .hdr s = .next (faultedAs 6 s) := by
  have hready : (randomFull s.rv && checkFull s.cv) = false := by
    rwa [Bool.and_eq_false_iff, ← Bool.not_eq_true, ← Bool.not_eq_true, randomFull_iff,
      checkFull_iff]
  rw [exec, execHdr, require_of_true hbv]
  exact command_require_fault he hready .hdrInput _

/-- RDH at position `i` while H holds a value (R79). -/
theorem exec_rdh {idx : BitVec 4} {i : Fin 12} (hi : idx.toNat = i.val) (hhv : s.hv = true) :
    exec (.rdh idx) s = .next (answered s.h[i] s) := by
  rw [exec, execRdh, byteIndex, indexIn_eq_some.2 hi]
  exact command_require_respond he hhv ..

/-- RDH at a position while no header is built (R79). -/
theorem exec_rdh_of_no_header {idx : BitVec 4} {i : Fin 12} (hi : idx.toNat = i.val)
    (hhv : s.hv = false) : exec (.rdh idx) s = .next (faultedAs 7 s) := by
  rw [exec, execRdh, byteIndex, indexIn_eq_some.2 hi]
  exact command_require_fault he hhv .hdrOutput _

/-- RDH out of range, with or without a header (R79, R89). -/
theorem exec_rdh_of_lt {idx : BitVec 4} (hidx : 11 < idx.toNat) :
    exec (.rdh idx) s = .next (faultedAs 3 s) := by
  rw [exec, execRdh, byteIndex, indexIn_eq_none.2 hidx]
  exact command_raiseFault he .indexRange

end HeaderCommands

/-- The word of ADV is ADV (R63). -/
theorem decode_encode_adv (imm : Byte) : decode (encode (.adv imm)) = .ok (.adv imm) :=
  decode_packWord 2 0 imm

/-- The word of ENC is ENC (R65). -/
theorem decode_encode_enc (imm : Byte) : decode (encode (.enc imm)) = .ok (.enc imm) :=
  decode_packWord 4 0 imm

/-- The word of LDC with an index in range is LDC (R77). -/
theorem decode_encode_ldc {idx : BitVec 4} (hidx : idx.toNat ≤ 1) (imm : Byte) :
    decode (encode (.ldc idx imm)) = .ok (.ldc idx imm) :=
  decode_index_byte (op := 9) (fun _ _ => rfl) hidx imm

/-- Both halves of the check value loaded are the check value, whatever CHK held (R77). -/
theorem writeCheckByte_both (chk v : BitVec 16) :
    writeCheckByte (writeCheckByte chk 0 (slice 0 8 v)) 1 (slice 8 8 v) = v := by
  apply BitVec.eq_of_toNat_eq
  rw [writeCheckByte_high, writeCheckByte_low, slice_toNat, slice_toNat]
  have := v.isLt
  omega

/-- Both halves marked are both flags of CV (R18). -/
theorem markCheck_both (cv : BitVec 2) : markCheck (markCheck cv 0) 1 = 0b11 := by
  revert cv; decide

/-- The state of the password s3cret (95_test_vectors.md S1). -/
theorem initState_s3cret : initState [0x73, 0x33, 0x63, 0x72, 0x65, 0x74] =
    ⟨0x6AFADE02, 0x9FEAA373, 0x21F86344⟩ := by decide +kernel

/-- The header of the worked example and the state its second pass ends in (R78,
95_test_vectors.md V6). -/
theorem buildHeader_s3cret :
    buildHeader (initState [0x73, 0x33, 0x63, 0x72, 0x65, 0x74])
        #v[0x10, 0x11, 0x12, 0x13, 0x14, 0x15, 0x16, 0x17, 0x18, 0x19, 0x1A, 0x1B] 0x645C =
      (⟨0xE2003D80, 0xD145808A, 0xD93F2091⟩,
        #v[0x10, 0xA5, 0x30, 0x27, 0x56, 0x06, 0x9A, 0xCA, 0x99, 0x16, 0x3A, 0x5A]) := by
  decide +kernel

section Sequences

/-- One command of a run that answers `d`, and the delivery of its answer (R36, R40). -/
theorem runCommands_cons_answered {i : Instr} {is : List Instr} {s t : State} {d : Byte}
    (hd : decode (encode i) = .ok i) (h : exec i s = .next (answered d t)) :
    runCommands (i :: is) s =
      runCommands is { t with rsp := none, delivered := t.delivered ++ [okResponse d] } := by
  rw [runCommands_cons hd h, deliver_answered]

/-- A program after another runs from where that one ended. -/
theorem runCommands_append {a b : List Instr} {s t : State} (h : runCommands a s = .next t) :
    runCommands (a ++ b) s = runCommands b t := by
  rw [runCommands, List.map_append, runWords_append h, runCommands]

/-- A program of no command changes nothing. -/
theorem runCommands_nil (s : State) : runCommands [] s = .next s := rfl

variable {s : State} (he : s.err = false) (hrsp : s.rsp = none)
include he hrsp

/-- A list of ADV absorbs its bytes in order (R55, R63). -/
theorem runCommands_adv (hkv : s.kv = true) (pw : List Byte) :
    runCommands (pw.map .adv) s = .next
      { s with
        k := absorb s.k pw
        delivered := s.delivered ++ List.replicate pw.length 0x0000 } := by
  induction pw generalizing s with
  | nil => simp [runCommands_nil, absorb]
  | cons p pw ih =>
    rw [List.map_cons, runCommands_cons_answered (decode_encode_adv p) (exec_adv he hkv p),
      ih (by exact he) rfl (by exact hkv), hrsp]
    simp [absorb, okResponse, List.replicate_succ]

/-- `INIT` leaves K at the state of its bytes (R67). -/
theorem runCommands_pseudoInit (pw : List Byte) :
    runCommands (pseudoInit pw) s = .next
      { s with
        k := initState pw
        kv := true
        delivered := s.delivered ++ List.replicate (pw.length + 1) 0x0000 } := by
  rw [pseudoInit, runCommands_cons_answered rfl (exec_seed he),
    runCommands_adv (by exact he) rfl rfl, hrsp]
  simp [initState, okResponse, List.replicate_succ]

/-- `KEY` leaves K and B at the state of its bytes (R80). -/
theorem runCommands_pseudoKey (pw : List Byte) :
    runCommands (pseudoKey pw) s = .next
      { s with
        k := initState pw
        kv := true
        b := initState pw
        bv := true
        delivered := s.delivered ++ List.replicate (pw.length + 2) 0x0000 } := by
  rw [pseudoKey, runCommands_append (runCommands_pseudoInit he hrsp pw),
    runCommands_cons_answered rfl (exec_save (by exact he) rfl), runCommands_nil, hrsp]
  simp [okResponse, List.replicate_succ' (n := pw.length + 1)]

/-- `ENCS` answers the ciphertext of its bytes and leaves K at the end state (R68). -/
theorem runCommands_pseudoEncs (hkv : s.kv = true) (ps : List Byte) :
    runCommands (pseudoEncs ps) s = .next
      { s with
        k := (encryptBytes s.k ps).1
        delivered := s.delivered ++ (encryptBytes s.k ps).2.map okResponse } := by
  rw [pseudoEncs]
  induction ps generalizing s with
  | nil => simp [runCommands_nil, encryptBytes]
  | cons p ps ih =>
    rw [List.map_cons, runCommands_cons_answered (decode_encode_enc p) (exec_enc he hkv p),
      ih (by exact he) rfl (by exact hkv), hrsp]
    simp [encryptBytes, encryptByte]

/-- `LDCW` loads both halves of the check value, whatever CHK held (R49, R77). -/
theorem runCommands_pseudoLdcw (v : BitVec 16) :
    runCommands (pseudoLdcw v) s = .next
      { s with chk := v, cv := 0b11, delivered := s.delivered ++ [0x0000, 0x0000] } := by
  rw [pseudoLdcw,
    runCommands_cons_answered (decode_encode_ldc (idx := 0) (by decide) _)
      (exec_ldc he (idx := 0) (i := 0) rfl _),
    runCommands_cons_answered (decode_encode_ldc (idx := 1) (by decide) _)
      (exec_ldc (by exact he) (idx := 1) (i := 1) rfl _),
    runCommands_nil]
  simp [hrsp, writeCheckByte_both, markCheck_both, okResponse]

end Sequences

/-- Settles O13: SAVE requires K and has no operand; the example is `KEY` of the password s3cret. -/
theorem saveCopiesKeyToBase : Obligations.SaveCopiesKeyToBase := by
  refine ⟨rfl, rfl, fun s he =>
    ⟨exec_save he, fun hkv => command_require_fault he hkv .keyInvalid _,
      fun _ _ hne => accept_bare_of_field_ne_zero (fun _ _ => rfl) he hne, fun hrsp => ?_⟩⟩
  rw [runCommands_pseudoKey he hrsp, initState_s3cret]
  rfl

/-- Settles O14: REST requires B, not K, and has no operand; in the example ENC moves K and leaves
B, so REST brings the base key back. -/
theorem restCopiesBaseToKey : Obligations.RestCopiesBaseToKey := by
  refine ⟨rfl, rfl, fun s he =>
    ⟨exec_rest he, fun hbv => command_require_fault he hbv .baseInvalid _,
      fun _ _ hne => accept_bare_of_field_ne_zero (fun _ _ => rfl) he hne, fun hrsp ps => ?_⟩⟩
  rw [List.append_assoc, runCommands_append (runCommands_pseudoKey he hrsp _),
    runCommands_append (runCommands_pseudoEncs (by exact he) (by exact hrsp) rfl ps),
    runCommands_cons_answered rfl (exec_rest (by exact he) rfl), runCommands_nil]
  exact ⟨_, rfl, initState_s3cret, he⟩

/-- Settles O15: the byte is that of `Vector.set`, the bit that of `markRandom`; an index out of
range is Fault(3) by the meaning and by the decoder. -/
theorem ldrLoadsRandomByte : Obligations.LdrLoadsRandomByte := by
  intro s idx imm he
  refine ⟨packWord_eq_or 8 idx imm, fun hidx => ?_,
    fun hidx => ⟨exec_ldr_of_lt he hidx imm,
      accept_index_byte_of_top_lt (fun _ _ => rfl) he hidx imm⟩, ?_⟩
  · obtain ⟨i, hi⟩ : ∃ i : Fin 12, idx.toNat = i.val := ⟨⟨_, Nat.lt_succ_of_le hidx⟩, rfl⟩
    refine ⟨decode_index_byte (op := 8) (fun _ _ => rfl) hidx imm, _, exec_ldr he hi imm,
      fun j => ?_, fun j => ?_, rfl⟩
    · simp [answered, Vector.getElem_set, hi, eq_comm]
    · rw [hi, Bool.or_comm]
      exact (markRandom_getLsbD s.rv i j).trans (by simp [Fin.ext_iff, eq_comm])
  · exact ⟨_, (accept_of_ok (i := .ldr 10 0x1A) rfl s).trans
        (exec_ldr he (idx := 10) (i := 10) rfl _),
      Vector.getElem_set_self _, (markRandom_getLsbD s.rv 10 10).trans (by simp), rfl⟩

/-- Settles O16: `idx` 0 and 1 are the two halves of CHK and of CV; the two words of the example
are `LDCW` of 0x645C. -/
theorem ldcLoadsCheckByte : Obligations.LdcLoadsCheckByte := by
  intro s idx imm he
  refine ⟨packWord_eq_or 9 idx imm, fun hidx => decode_encode_ldc hidx imm, fun hidx => ?_,
    fun hidx => ?_, fun hidx => ⟨exec_ldc_of_lt he hidx imm,
      accept_index_byte_of_top_lt (fun _ _ => rfl) he hidx imm⟩,
    fun hrsp => runCommands_pseudoLdcw he hrsp 0x645C⟩
  · exact ⟨_, exec_ldc he (i := 0) hidx imm, writeCheckByte_low _ _,
      (markCheck_getLsbD s.cv 0 0).trans (by simp),
      (markCheck_getLsbD s.cv 0 1).trans (by simp), rfl⟩
  · exact ⟨_, exec_ldc he (i := 1) hidx imm, writeCheckByte_high _ _,
      (markCheck_getLsbD s.cv 1 0).trans (by simp),
      (markCheck_getLsbD s.cv 1 1).trans (by simp), rfl⟩

/-- Settles O17: HDR requires B, then both kinds of header input; it keeps R and CHK, which leaves
them open as the statement does. -/
theorem hdrBuildsHeader : Obligations.HdrBuildsHeader := by
  refine ⟨rfl, rfl, fun s he =>
    ⟨fun hbv hrv hcv => ⟨_, exec_hdr he hbv hrv hcv, rfl⟩,
      fun hbv => command_require_fault he hbv .baseInvalid _,
      exec_hdr_of_missing he,
      fun _ _ hne => accept_bare_of_field_ne_zero (fun _ _ => rfl) he hne,
      fun hbv hrv hcv hb hr hchk => ?_⟩⟩
  have hbuild := buildHeader_s3cret
  rw [← hb, ← hr, ← hchk] at hbuild
  refine ⟨?_, ?_, _, (accept_of_ok (i := .hdr) rfl s).trans (exec_hdr he hbv hrv hcv),
    congrArg Prod.snd hbuild, congrArg Prod.fst hbuild⟩
  · rw [hb, hr]; decide +kernel
  · rw [hb, hr, hchk]; decide +kernel

/-- Settles O18: the decoder looks at `imm` before `idx`, so Fault(2) wins over Fault(3). -/
theorem rdhAnswersHeaderByte : Obligations.RdhAnswersHeaderByte := by
  intro s idx he
  refine ⟨packWord_zero_imm 0xB idx,
    fun hidx => decode_index (op := 0xB) (fun _ _ => rfl) hidx,
    fun hhv i hi => exec_rdh he hi hhv,
    fun hidx hhv => exec_rdh_of_no_header he (i := ⟨_, Nat.lt_succ_of_le hidx⟩) rfl hhv,
    fun hidx => ⟨exec_rdh_of_lt he hidx, accept_index_of_top_lt (fun _ _ => rfl) he hidx⟩,
    fun imm himm => accept_index_of_imm_ne_zero (fun _ _ => rfl) he himm idx,
    fun hhv hh => ⟨?_, ?_⟩⟩
  · have hbyte : s.h[(0 : Fin 12)] = 0x10 := by rw [hh]; rfl
    rw [accept_of_ok (i := .rdh 0) rfl, exec_rdh he (idx := 0) (i := 0) rfl hhv, hbyte]
    rfl
  · have hbyte : s.h[(11 : Fin 12)] = 0x5A := by rw [hh]; rfl
    rw [accept_of_ok (i := .rdh 11) rfl, exec_rdh he (idx := 11) (i := 11) rfl hhv, hbyte]
    rfl

end Sys2Proof.Machine

/-! ## The access and status commands

The bytes of K by register and byte within it, read and written (R31, R83, R84), the bits of the
status bytes (R21, R85), then NOP, RDK, WRK and RDS, one lemma each, the sequences `RDKW` and
`WRKW` (R49), and the reserved opcode (42_access_status.md). -/

namespace Sys2Proof.Machine

section WordBytes

/-- Bit `i` of the mask of the low byte. -/
theorem byteMask_getLsbD (i : Nat) : (0xFF : Word).getLsbD i = decide (i < 8) := by
  rw [show (0xFF : Word) = (BitVec.allOnes 8).setWidth 32 from rfl, BitVec.getLsbD_setWidth,
    BitVec.getLsbD_allOnes, ← Bool.decide_and]
  exact decide_eq_decide.2 (by omega)

/-- The word `x` with byte `l` replaced by `v` and every other bit kept (R84). -/
def setWordByte (x : Word) (l : Fin 4) (v : Byte) : Word :=
  (x &&& ~~~((0xFF : Word) <<< (8 * l.val))) ||| (v.setWidth 32 <<< (8 * l.val))

/-- Replacing byte `l` of a word changes that byte and no other (R84). -/
theorem slice_setWordByte (x : Word) (l m : Fin 4) (v : Byte) :
    slice (8 * m.val) 8 (setWordByte x l v) = if m = l then v else slice (8 * m.val) 8 x := by
  ext n hn
  have hbit : 8 * m.val + n < 32 := by omega
  simp only [setWordByte, slice, BitVec.getElem_extractLsb', BitVec.getLsbD_or, BitVec.getLsbD_and,
    BitVec.getLsbD_not, BitVec.getLsbD_shiftLeft, byteMask_getLsbD, BitVec.getLsbD_setWidth]
  split
  case isTrue h =>
    subst h
    simp [hn, hbit, show n < 32 by omega]
  case isFalse h =>
    rw [BitVec.getElem_extractLsb']
    obtain hbelow | habove : 8 * m.val + n < 8 * l.val ∨ 8 * l.val + 8 ≤ 8 * m.val + n := by omega
    · simp [hbit, hbelow]
    · have hv : v.getLsbD (8 * m.val + n - 8 * l.val) = false :=
        BitVec.getLsbD_of_ge _ _ (by omega)
      simp [hbit, hv, show ¬ 8 * m.val + n - 8 * l.val < 8 by omega]

/-- A word is given by its four bytes. -/
theorem word_eq_of_bytes {x y : Word}
    (h : ∀ l : Fin 4, slice (8 * l.val) 8 x = slice (8 * l.val) 8 y) : x = y := by
  ext n hn
  have hbit := congrArg (BitVec.getLsbD · (n % 8)) (h ⟨n / 8, by omega⟩)
  simpa [slice, show n % 8 < 8 by omega, Nat.div_add_mod, hn] using hbit

end WordBytes

section KeyBytes

/-- Byte `l` of K[r] as a position in K, `4 * r + l` (R31). -/
def keyPosition (r : Fin 3) (l : Fin 4) : Fin 12 := ⟨4 * r.val + l.val, by omega⟩

/-- Every position in K is a byte of a register (R31). -/
theorem exists_eq_keyPosition (i : Fin 12) : ∃ r l, i = keyPosition r l :=
  ⟨⟨i.val / 4, by omega⟩, ⟨i.val % 4, by omega⟩, Fin.ext (Nat.div_add_mod i.val 4).symm⟩

/-- Different bytes of K have different positions (R31). -/
@[simp] theorem keyPosition_inj {r q : Fin 3} {l m : Fin 4} :
    keyPosition r l = keyPosition q m ↔ r = q ∧ l = m := by
  simp only [keyPosition, Fin.ext_iff]
  omega

/-- A position splits into its register, `i >> 2`, and its byte, `i AND 3` (R83). -/
theorem keyPosition_div_mod (r : Fin 3) (l : Fin 4) :
    (keyPosition r l).val / 4 = r.val ∧ (keyPosition r l).val % 4 = l.val := by
  simp only [keyPosition]
  omega

/-- The byte read at a position is that byte of its register (R83). -/
theorem readKeyByte_keyPosition (k : Keys) (r : Fin 3) (l : Fin 4) :
    readKeyByte k (keyPosition r l) = slice (8 * l.val) 8 (keyWord k r.val) := by
  obtain ⟨hr, hl⟩ := keyPosition_div_mod r l
  rw [readKeyByte, byteShift, hr, hl]
  ext n hn
  simp

/-- A byte written at a position replaces that byte of its register (R84). -/
theorem writeKeyByte_keyPosition (k : Keys) (r : Fin 3) (l : Fin 4) (v : Byte) :
    writeKeyByte k (keyPosition r l) v =
      setKeyWord k r.val (setWordByte (keyWord k r.val) l v) := by
  obtain ⟨hr, hl⟩ := keyPosition_div_mod r l
  rw [writeKeyByte, byteShift, hr, hl, setWordByte]

/-- A byte of a value as a quotient (R6). -/
theorem slice_byte_toNat {w : Nat} (lo : Nat) (v : BitVec w) :
    (slice lo 8 v).toNat = v.toNat / 2 ^ lo % 256 := slice_toNat lo 8 v

/-- The byte at a position as a quotient: byte 0 is bits 7:0 (R31, R83). -/
theorem readKeyByte_toNat (k : Keys) (i : Fin 12) :
    (readKeyByte k i).toNat = (keyWord k (i.val / 4)).toNat / 2 ^ (8 * (i.val % 4)) % 256 := by
  rw [readKeyByte, slice_byte_toNat, byteShift, BitVec.toNat_ushiftRight, Nat.shiftRight_eq_div_pow,
    Nat.pow_zero, Nat.div_one]

/-- A register number selects K0, K1 or K2 (R8). -/
theorem keyWord_eq_ite (k : Keys) (r : Nat) :
    keyWord k r = if r = 0 then k.k0 else if r = 1 then k.k1 else k.k2 :=
  match r with
  | 0 | 1 | _ + 2 => rfl

/-- A byte written is read back and the eleven others are as before (R84). -/
theorem readKeyByte_writeKeyByte (k : Keys) (i j : Fin 12) (v : Byte) :
    readKeyByte (writeKeyByte k i v) j = if j = i then v else readKeyByte k j := by
  obtain ⟨r, l, rfl⟩ := exists_eq_keyPosition i
  obtain ⟨q, m, rfl⟩ := exists_eq_keyPosition j
  rw [writeKeyByte_keyPosition, readKeyByte_keyPosition, readKeyByte_keyPosition,
    keyWord_setKeyWord]
  by_cases hr : r = q
  · subst hr
    simp [slice_setWordByte]
  · simp [hr, Ne.symm hr]

/-- The bytes of K after a whole register is written (R31). -/
theorem readKeyByte_setKeyWord (k : Keys) (r q : Fin 3) (l : Fin 4) (v : Word) :
    readKeyByte (setKeyWord k r.val v) (keyPosition q l) =
      if q = r then slice (8 * l.val) 8 v else readKeyByte k (keyPosition q l) := by
  rw [readKeyByte_keyPosition, keyWord_setKeyWord, readKeyByte_keyPosition]
  by_cases hr : r = q <;> simp [hr, eq_comm]

/-- K is given by its twelve bytes. -/
theorem keys_eq_of_readKeyByte {k k' : Keys} (h : ∀ i, readKeyByte k i = readKeyByte k' i) :
    k = k' := by
  have hword (r : Fin 3) : keyWord k r.val = keyWord k' r.val :=
    word_eq_of_bytes fun l => by
      rw [← readKeyByte_keyPosition, ← readKeyByte_keyPosition, h]
  obtain ⟨k0, k1, k2⟩ := k
  obtain ⟨k0', k1', k2'⟩ := k'
  exact (Keys.mk.injEq ..).mpr ⟨hword 0, hword 1, hword 2⟩

/-- K after byte writes in order, each a position and a byte. -/
def writeKeyBytes (k : Keys) (ps : List (Fin 12 × Byte)) : Keys :=
  ps.foldl (fun k p => writeKeyByte k p.1 p.2) k

/-- The four bytes of a word with their positions in K[r], low byte first (R31). -/
def keyWordBytes (r : Fin 3) (v : Word) : List (Fin 12 × Byte) :=
  (List.finRange 4).map fun l => (keyPosition r l, slice (8 * l.val) 8 v)

/-- The four bytes of a word, written into K[r], make K[r] the word (R31). -/
theorem writeKeyBytes_keyWordBytes (k : Keys) (r : Fin 3) (v : Word) :
    writeKeyBytes k (keyWordBytes r v) = setKeyWord k r.val v := by
  apply keys_eq_of_readKeyByte
  intro i
  obtain ⟨q, l, rfl⟩ := exists_eq_keyPosition i
  rw [readKeyByte_setKeyWord]
  simp only [writeKeyBytes, keyWordBytes, List.finRange_succ, List.finRange_zero, List.map_cons,
    List.map_nil, List.foldl_cons, List.foldl_nil, readKeyByte_writeKeyByte, keyPosition_inj]
  by_cases hr : q = r
  · fin_cases l <;> simp [hr]
  · simp [hr]

end KeyBytes

section StatusBytes

variable (s : State)

/-- The bits of STATUS: the valid flags and RFULL, with zeros above (R21). -/
theorem statusByte_bits :
    (statusByte s).getLsbD 0 = s.kv ∧ (statusByte s).getLsbD 1 = s.bv ∧
      (statusByte s).getLsbD 2 = s.hv ∧ (statusByte s).getLsbD 3 = s.cv.getLsbD 0 ∧
      (statusByte s).getLsbD 4 = s.cv.getLsbD 1 ∧
      ((statusByte s).getLsbD 5 = true ↔ s.rv = 0xFFF) ∧
      (statusByte s).getLsbD 6 = false ∧ (statusByte s).getLsbD 7 = false := by
  rw [← randomFull_iff]
  simp only [statusByte, BitVec.getLsbD_append]
  simp

/-- Status byte 1 is `RV[7:0]` (R85). -/
theorem readStatus_one_toNat : (readStatus s 1).toNat = s.rv.toNat % 256 := by
  rw [readStatus, slice_byte_toNat, Nat.pow_zero, Nat.div_one]

/-- Status byte 2 is `RV[11:8]` (R85). -/
theorem readStatus_two_toNat : (readStatus s 2).toNat = s.rv.toNat / 256 := by
  have := s.rv.isLt
  rw [readStatus, BitVec.toNat_append, slice_toNat, show (0 : BitVec 4).toNat = 0 from rfl,
    Nat.zero_shiftLeft, Nat.zero_or]
  omega

end StatusBytes

section AccessCommands

/-- In the fault state a word changes the response only: the recorded code, in the form the spec
writes it (R43, R91). -/
theorem answerRecorded_eq (s : State) :
    answerRecorded s = { s with rsp := some (0x1000 ||| (s.ecode.setWidth 16 <<< 8)) } := by
  rw [answerRecorded, responseWord_fault]

/-- A word below 0x1000 has opcode 0 (R41). -/
theorem opField_eq_zero_of_lt {w : CmdWord} (hw : w.toNat < 0x1000) : opField w = 0 := by
  apply BitVec.eq_of_toNat_eq
  rw [opField, slice_toNat, Nat.div_eq_of_lt (by omega)]
  rfl

/-- Only the word 0x0000 has all three fields zero (R41). -/
theorem idxField_or_immField_ne_zero {w : CmdWord} (hw : w ≠ 0) (hop : opField w = 0) :
    idxField w ≠ 0 ∨ immField w ≠ 0 := by
  by_contra! h
  obtain ⟨hidx, himm⟩ := h
  refine hw ?_
  rw [← packWord_fields w, hop, hidx, himm]
  rfl

variable {s : State} (he : s.err = false)
include he

/-- NOP outside the fault state (R82). -/
theorem exec_nop : exec .nop s = .next (answered 0 s) := command_respond he ..

/-- RDK at position `i` while K holds a value (R83). -/
theorem exec_rdk {idx : BitVec 4} {i : Fin 12} (hi : idx.toNat = i.val) (hkv : s.kv = true) :
    exec (.rdk idx) s = .next (answered (readKeyByte s.k i) s) := by
  rw [exec, execRdk, byteIndex, indexIn_eq_some.2 hi]
  exact command_require_respond he hkv ..

/-- RDK at a position while K holds no value (R83). -/
theorem exec_rdk_of_no_key {idx : BitVec 4} {i : Fin 12} (hi : idx.toNat = i.val)
    (hkv : s.kv = false) : exec (.rdk idx) s = .next (faultedAs 4 s) := by
  rw [exec, execRdk, byteIndex, indexIn_eq_some.2 hi]
  exact command_require_fault he hkv .keyInvalid _

/-- RDK out of range, with or without a key (R83, R89). -/
theorem exec_rdk_of_lt {idx : BitVec 4} (hidx : 11 < idx.toNat) :
    exec (.rdk idx) s = .next (faultedAs 3 s) := by
  rw [exec, execRdk, byteIndex, indexIn_eq_none.2 hidx]
  exact command_raiseFault he .indexRange

/-- WRK at position `i` while K holds a value (R84). -/
theorem exec_wrk {idx : BitVec 4} {i : Fin 12} (hi : idx.toNat = i.val) (hkv : s.kv = true)
    (imm : Byte) :
    exec (.wrk idx imm) s = .next (answered 0 { s with k := writeKeyByte s.k i imm }) := by
  rw [exec, execWrk, byteIndex, indexIn_eq_some.2 hi]
  exact command_require_respond he hkv ..

/-- WRK at a position while K holds no value (R84). -/
theorem exec_wrk_of_no_key {idx : BitVec 4} {i : Fin 12} (hi : idx.toNat = i.val)
    (hkv : s.kv = false) (imm : Byte) : exec (.wrk idx imm) s = .next (faultedAs 4 s) := by
  rw [exec, execWrk, byteIndex, indexIn_eq_some.2 hi]
  exact command_require_fault he hkv .keyInvalid _

/-- WRK out of range, with or without a key (R84, R89). -/
theorem exec_wrk_of_lt {idx : BitVec 4} (hidx : 11 < idx.toNat) (imm : Byte) :
    exec (.wrk idx imm) s = .next (faultedAs 3 s) := by
  rw [exec, execWrk, byteIndex, indexIn_eq_none.2 hidx]
  exact command_raiseFault he .indexRange

/-- RDS of status byte `i` (R85). -/
theorem exec_rds {idx : BitVec 4} {i : Fin 3} (hi : idx.toNat = i.val) :
    exec (.rds idx) s = .next (answered (readStatus s i) s) := by
  rw [exec, execRds, statusIndex, indexIn_eq_some.2 hi]
  exact command_respond he ..

/-- RDS out of range (R85). -/
theorem exec_rds_of_lt {idx : BitVec 4} (hidx : 2 < idx.toNat) :
    exec (.rds idx) s = .next (faultedAs 3 s) := by
  rw [exec, execRds, statusIndex, indexIn_eq_none.2 hidx]
  exact command_raiseFault he .indexRange

/-- The word 0xE000 answers STATUS (R85). -/
theorem accept_rds_status {d : Byte} (hd : statusByte s = d) :
    accept 0xE000 s = .next (answered d s) := by
  rw [accept_of_ok (i := .rds 0) rfl, exec_rds he (idx := 0) (i := 0) rfl, readStatus, hd]

end AccessCommands

section KeySequences

/-- A position in K as the index operand of its command. -/
theorem ofNat_position_toNat (i : Fin 12) : (BitVec.ofNat 4 i.val).toNat = i.val :=
  (BitVec.toNat_ofNat ..).trans (Nat.mod_eq_of_lt (by omega))

/-- The word of RDK at a position is RDK (R83). -/
theorem decode_encode_rdk (i : Fin 12) :
    decode (encode (.rdk (BitVec.ofNat 4 i.val))) = .ok (.rdk (BitVec.ofNat 4 i.val)) :=
  decode_index (op := 0xC) (top := 11) (fun _ _ => rfl)
    ((ofNat_position_toNat i).trans_le (by omega))

/-- The word of WRK at a position is WRK (R84). -/
theorem decode_encode_wrk (i : Fin 12) (v : Byte) :
    decode (encode (.wrk (BitVec.ofNat 4 i.val) v)) = .ok (.wrk (BitVec.ofNat 4 i.val) v) :=
  decode_index_byte (op := 0xD) (top := 11) (fun _ _ => rfl)
    ((ofNat_position_toNat i).trans_le (by omega)) v

variable {s : State} (he : s.err = false) (hrsp : s.rsp = none) (hkv : s.kv = true)
include he hrsp hkv

/-- A list of RDK answers the bytes of K at its positions and changes nothing (R83). -/
theorem runCommands_rdk (is : List (Fin 12)) :
    runCommands (is.map fun i => .rdk (BitVec.ofNat 4 i.val)) s = .next
      { s with delivered := s.delivered ++ is.map fun i => okResponse (readKeyByte s.k i) } := by
  induction is generalizing s with
  | nil => simp [runCommands_nil]
  | cons i is ih =>
    rw [List.map_cons, runCommands_cons_answered (decode_encode_rdk i)
      (exec_rdk he (ofNat_position_toNat i) hkv), ih (by exact he) rfl (by exact hkv), hrsp]
    simp

/-- A list of WRK writes its bytes into K in order (R84). -/
theorem runCommands_wrk (ps : List (Fin 12 × Byte)) :
    runCommands (ps.map fun p => .wrk (BitVec.ofNat 4 p.1.val) p.2) s = .next
      { s with
        k := writeKeyBytes s.k ps
        delivered := s.delivered ++ List.replicate ps.length 0x0000 } := by
  induction ps generalizing s with
  | nil => simp [runCommands_nil, writeKeyBytes]
  | cons p ps ih =>
    rw [List.map_cons, runCommands_cons_answered (decode_encode_wrk p.1 p.2)
      (exec_wrk he (ofNat_position_toNat p.1) hkv p.2), ih (by exact he) rfl (by exact hkv), hrsp]
    simp [writeKeyBytes, okResponse, List.replicate_succ]

/-- `RDKW` answers the four bytes of K[r] low byte first (R49). -/
theorem runCommands_pseudoRdkw (r : Fin 3) :
    runCommands (pseudoRdkw r) s = .next
      { s with
        delivered := s.delivered ++
          (List.finRange 4).map fun l =>
            okResponse (slice (8 * l.val) 8 (keyWord s.k r.val)) } := by
  have hlist : pseudoRdkw r =
      ((List.finRange 4).map (keyPosition r)).map fun i => .rdk (BitVec.ofNat 4 i.val) := rfl
  rw [hlist, runCommands_rdk he hrsp hkv]
  simp only [List.map_map, Function.comp_def, readKeyByte_keyPosition]

/-- `WRKW` makes K[r] the given value (R49). -/
theorem runCommands_pseudoWrkw (r : Fin 3) (v : Word) :
    runCommands (pseudoWrkw r v) s = .next
      { s with
        k := setKeyWord s.k r.val v
        delivered := s.delivered ++ List.replicate 4 0x0000 } := by
  have hlist : pseudoWrkw r v =
      (keyWordBytes r v).map fun p => .wrk (BitVec.ofNat 4 p.1.val) p.2 := rfl
  rw [hlist, runCommands_wrk he hrsp hkv, writeKeyBytes_keyWordBytes]
  rfl

end KeySequences

/-- Settles O7: NOP has no operand, so every other word with opcode 0 has a nonzero field. -/
theorem nopChangesNothing : Obligations.NopChangesNothing := by
  refine ⟨rfl, rfl, fun s => ⟨exec_nop, fun he => ?_, fun he w hlo hhi => ?_⟩⟩
  · rw [exec_of_err he, answerRecorded_eq]
  · have hop : opField w = 0 := opField_eq_zero_of_lt (by omega)
    have hne : w ≠ 0 := by rintro rfl; simp at hlo
    rw [← packWord_fields w, hop]
    exact accept_bare_of_field_ne_zero (fun _ _ => rfl) he (idxField_or_immField_ne_zero hne hop)

/-- Settles O44: the quotient is `readKeyByte_toNat`, the read after a write
`readKeyByte_writeKeyByte`. -/
theorem keyBytesAreLittleEndian : Obligations.KeyBytesAreLittleEndian := by
  refine fun k i => ⟨?_, fun v j => readKeyByte_writeKeyByte k i j v⟩
  rw [readKeyByte_toNat, pow_mul, show 2 ^ 8 = 256 from rfl]

/-- Settles O19: RDK has an index only and requires K after its index is found in range. -/
theorem rdkAnswersKeyByte : Obligations.RdkAnswersKeyByte := by
  intro s idx he
  refine ⟨packWord_zero_imm 0xC idx,
    fun hidx => decode_index (op := 0xC) (fun _ _ => rfl) hidx,
    fun hidx hkv => ⟨_, exec_rdk he (i := ⟨_, Nat.lt_succ_of_le hidx⟩) rfl hkv, ?_⟩,
    fun hidx hkv => exec_rdk_of_no_key he (i := ⟨_, Nat.lt_succ_of_le hidx⟩) rfl hkv,
    fun hidx => ⟨exec_rdk_of_lt he hidx, accept_index_of_top_lt (fun _ _ => rfl) he hidx⟩,
    fun imm himm => accept_index_of_imm_ne_zero (fun _ _ => rfl) he himm idx,
    fun hkv hk => ?_⟩
  · rw [readKeyByte_toNat, keyWord_eq_ite]
    split_ifs <;> rfl
  · have hexample (idx : BitVec 4) (i : Fin 12) (d : Byte) (hi : idx.toNat = i.val)
        (hd : readKeyByte ⟨0x6AFADE02, 0x9FEAA373, 0x21F86344⟩ i = d) :
        exec (.rdk idx) s = .next (answered d s) := by rw [exec_rdk he hi hkv, hk, hd]
    exact ⟨hexample 0 0 0x02 rfl rfl, hexample 3 3 0x6A rfl rfl, hexample 4 4 0x73 rfl rfl,
      hexample 11 11 0x21 rfl rfl⟩

/-- Settles O49: `RDKW` is four RDK and `WRKW` four WRK, at the positions of K[r] in order. -/
theorem keyWordSequences : Obligations.KeyWordSequences :=
  fun _ r v he hrsp hkv =>
    ⟨runCommands_pseudoRdkw he hrsp hkv r, runCommands_pseudoWrkw he hrsp hkv r v⟩

/-- Settles O20: WRK has both operands; the four words of the example are `WRKW` of K1. -/
theorem wrkWritesKeyByte : Obligations.WrkWritesKeyByte := by
  intro s idx imm he
  refine ⟨packWord_eq_or 0xD idx imm,
    fun hidx => decode_index_byte (op := 0xD) (fun _ _ => rfl) hidx imm,
    fun hkv i hi => ⟨_, exec_wrk he hi hkv imm,
      fun j => readKeyByte_writeKeyByte s.k i j imm, rfl⟩,
    fun hidx hkv => exec_wrk_of_no_key he (i := ⟨_, Nat.lt_succ_of_le hidx⟩) rfl hkv imm,
    fun hidx => ⟨exec_wrk_of_lt he hidx imm,
      accept_index_byte_of_top_lt (fun _ _ => rfl) he hidx imm⟩,
    fun hkv hk hrsp => ⟨?_, by decide +kernel⟩⟩
  have hrun := runCommands_pseudoWrkw he hrsp hkv 1 0xFFFFFFFF
  rw [hk] at hrun
  exact hrun

/-- Settles O21: RDS has an index only and no requirement; in the examples the six flags in STATUS
are given. -/
theorem rdsAnswersStatusByte : Obligations.RdsAnswersStatusByte := by
  intro s idx he
  refine ⟨packWord_zero_imm 0xE idx,
    fun hidx => decode_index (op := 0xE) (fun _ _ => rfl) hidx,
    fun hidx => ⟨_, exec_rds he (i := 0) hidx, statusByte_bits s⟩,
    fun hidx => ⟨_, exec_rds he (i := 1) hidx, readStatus_one_toNat s⟩,
    fun hidx => ⟨_, exec_rds he (i := 2) hidx, readStatus_two_toNat s⟩,
    fun hidx => ⟨exec_rds_of_lt he hidx, accept_index_of_top_lt (fun _ _ => rfl) he hidx⟩,
    fun imm himm => accept_index_of_imm_ne_zero (fun _ _ => rfl) he himm idx,
    accept_rds_status rfl rfl,
    fun hkv hbv hhv hrv hcv => accept_rds_status (d := 0x03) he ?_,
    fun hkv hbv hhv hrv hcv => accept_rds_status (d := 0x3B) he ?_,
    fun hkv hbv hhv hrv hcv => accept_rds_status (d := 0x07) he ?_⟩
  all_goals rw [statusByte, hkv, hbv, hhv, hrv, hcv]; rfl

/-- Settles O22: the decoder looks at no other field of a word with opcode 0xF. -/
theorem reservedOpcodeFaults : Obligations.ReservedOpcodeFaults :=
  ⟨fun _ idx imm he => accept_of_decode_error (c := .reservedOpcode) he
      (decode_packWord 0xF idx imm),
    _, rfl, rfl, rfl⟩

end Sys2Proof.Machine

/-! ## Faults

Taking a fault and the fault state (R90, R91); then the fault the machine raises for a word (R45 and
the requirements of the commands), the table of R88, and that the lowest code of the table is the
fault raised (R89; 60_exceptions.md). -/

namespace Sys2Proof.Machine

/-- Fault codes start at 1 (R88). -/
theorem one_le_faultBits (c : FaultCode) : 1 ≤ (faultBits c).toNat :=
  Nat.pos_of_ne_zero fun h => faultBits_ne_zero c (BitVec.eq_of_toNat_eq h)

/-- A word that makes ERR 1 raises a fault: no effect of a command sets ERR (R90). -/
theorem eq_raiseFault_of_accept {s t : State} {w : CmdWord} (he : s.err = false)
    (h : accept w s = .next t) (hte : t.err = true) : ∃ c, t = raiseFault c s := by
  obtain ⟨u, hu, ⟨hse, -⟩ | ⟨-, hfault | ⟨i, -, heff⟩⟩⟩ := accept_cases w s
  · simp [he] at hse
  · cases hu.symm.trans h
    exact hfault
  · cases hu.symm.trans h
    obtain ⟨d, body, rfl, hbody, -⟩ := heff.eq_respond
    simp [hbody, he] at hte

/-- Settles O29: a word that makes ERR 1 is `raiseFault`, whose codes are those of R88. -/
theorem faultChangesOnlyTheRecord : Obligations.FaultChangesOnlyTheRecord := by
  refine ⟨raiseFault_eq_faultedAs, fun s t w he h hte => ?_⟩
  obtain ⟨c, rfl⟩ := eq_raiseFault_of_accept he h hte
  exact ⟨faultBits c, one_le_faultBits c, faultBits_le_seven c, raiseFault_eq_faultedAs c s⟩

/-- In the fault state a run delivers the recorded code once per word and changes nothing else
(R91). -/
theorem runWords_of_err (ws : List CmdWord) {s : State} (he : s.err = true) (hrsp : s.rsp = none) :
    runWords ws s = .next
      { s with
        delivered := s.delivered ++
          List.replicate ws.length (0x1000 ||| (s.ecode.setWidth 16 <<< 8)) } := by
  induction ws generalizing s with
  | nil => simp [runWords]
  | cons w ws ih =>
    rw [runWords_cons (accept_of_err he w), answerRecorded_eq, deliver_of_some rfl,
      ih (by exact he) rfl, hrsp]
    simp [List.replicate_succ]

/-- Settles O30: every word and command goes through the check of ERR. -/
theorem faultedBlockExecutesNothing : Obligations.FaultedBlockExecutesNothing := fun s he =>
  ⟨fun w => answerRecorded_eq s ▸ accept_of_err he w,
    fun i => answerRecorded_eq s ▸ exec_of_err he i,
    fun hrsp ws => runWords_of_err ws he hrsp⟩

/-! ### The fault the machine raises for a word -/

/-- The requirement on the state that a command with its index in range fails first, as the fault it
names (R62 to R66, R74 to R79, R82 to R85). -/
def requirementFault (s : State) : Instr → Option FaultCode
  | .nop | .seed | .ldr _ _ | .ldc _ _ | .rds _ => none
  | .adv _ | .ksb | .enc _ | .dec _ | .save | .rdk _ | .wrk _ _ =>
    if !s.kv then some .keyInvalid else none
  | .rest => if !s.bv then some .baseInvalid else none
  | .hdr =>
    if !s.bv then some .baseInvalid
    else if s.rv ≠ 0xFFF ∨ s.cv ≠ 0b11 then some .hdrInput
    else none
  | .rdh _ => if !s.hv then some .hdrOutput else none

/-- The fault a word raises outside the fault state, if any: that of the decoder, else that of the
command it spells (R45). -/
def wordFault (w : CmdWord) (s : State) : Option FaultCode :=
  match decode w with
  | .error c => some c
  | .ok i => requirementFault s i

/-- From state `s` the outcome `o` is the fault named, or, where none is named, a next state with
the fault record clear and ECODE as it was. -/
def Reports (s : State) (o : Host.Outcome State Fault Refusal) : Option FaultCode → Prop
  | some c => o = .next (faultedAs (faultBits c) s)
  | none => ∃ t, o = .next t ∧ t.err = false ∧ t.ecode = s.ecode

/-- An index up to `n` is a position in a space of `n + 1` places (R35, R42). -/
theorem exists_position {n : Nat} {idx : BitVec 4} (h : decide (idx.toNat ≤ n) = true) :
    ∃ j : Fin (n + 1), idx.toNat = j.val :=
  ⟨⟨idx.toNat, Nat.lt_succ_of_le (of_decide_eq_true h)⟩, rfl⟩

section Reported

variable {s : State} (he : s.err = false)
include he

/-- An answer after a change that leaves the fault record reports no fault. -/
theorem reports_of_answered {o : Host.Outcome State Fault Refusal} {d : Byte} {body : State}
    (h : o = .next (answered d body)) (herr : body.err = s.err) (hcode : body.ecode = s.ecode) :
    Reports s o none := ⟨_, h, herr.trans he, hcode⟩

/-- A command with one requirement reports its fault exactly where the requirement fails (R9). -/
theorem reports_require (p : Bool) (c : FaultCode) {d : Byte} {body : State}
    (herr : body.err = s.err) (hcode : body.ecode = s.ecode) :
    Reports s (command s (require p c s (respond d body))) (if !p then some c else none) := by
  cases p with
  | true => exact reports_of_answered he (command_require_respond he rfl c d body) herr hcode
  | false => exact command_require_fault he rfl c _

/-- A command with its index in range reports the requirement it fails first (R9, R90). -/
theorem exec_reports {i : Instr} (hi : i.wellFormed = true) :
    Reports s (exec i s) (requirementFault s i) := by
  cases i with
  | nop => exact reports_of_answered he (exec_nop he) rfl rfl
  | seed => exact reports_of_answered he (exec_seed he) rfl rfl
  | adv imm => exact reports_require he _ _ rfl rfl
  | ksb => exact reports_require he _ _ rfl rfl
  | enc imm => exact reports_require he _ _ rfl rfl
  | dec imm => exact reports_require he _ _ rfl rfl
  | save => exact reports_require he _ _ rfl rfl
  | rest => exact reports_require he _ _ rfl rfl
  | ldr idx imm =>
    obtain ⟨j, hj⟩ := exists_position hi
    exact reports_of_answered he (exec_ldr he hj imm) rfl rfl
  | ldc idx imm =>
    obtain ⟨j, hj⟩ := exists_position hi
    exact reports_of_answered he (exec_ldc he hj imm) rfl rfl
  | hdr =>
    rw [requirementFault]
    split_ifs with hbv hmiss
    · exact command_require_fault he (by simpa using hbv) .baseInvalid _
    · exact exec_hdr_of_missing he (by simpa using hbv) hmiss
    · push Not at hmiss
      obtain ⟨hrv, hcv⟩ := hmiss
      exact reports_of_answered he (exec_hdr he (by simpa using hbv) hrv hcv) rfl rfl
  | rdh idx =>
    obtain ⟨j, hj⟩ := exists_position hi
    rw [exec, execRdh, byteIndex, indexIn_eq_some.2 hj]
    exact reports_require he _ _ rfl rfl
  | rdk idx =>
    obtain ⟨j, hj⟩ := exists_position hi
    rw [exec, execRdk, byteIndex, indexIn_eq_some.2 hj]
    exact reports_require he _ _ rfl rfl
  | wrk idx imm =>
    obtain ⟨j, hj⟩ := exists_position hi
    rw [exec, execWrk, byteIndex, indexIn_eq_some.2 hj]
    exact reports_require he _ _ rfl rfl
  | rds idx =>
    obtain ⟨j, hj⟩ := exists_position hi
    exact reports_of_answered he (exec_rds he hj) rfl rfl

end Reported

section DecodedForms

variable {idx : BitVec 4} {imm : Byte} {top : Nat} {i : Instr}

/-- A command with no operand is spelled with both fields zero (R42). -/
theorem decodeBare_eq_ok {j : Instr} :
    decodeBare j idx imm = .ok i ↔ (idx = 0 ∧ imm = 0) ∧ j = i := by
  simp [decodeBare, ite_eq_iff]

/-- A command with a byte operand only is spelled with `idx` zero (R42). -/
theorem decodeByte_eq_ok {c : Byte → Instr} :
    decodeByte c idx imm = .ok i ↔ idx = 0 ∧ c imm = i := by
  simp [decodeByte, ite_eq_iff]

/-- A command with an index only is spelled with `imm` zero and `idx` in range (R42). -/
theorem decodeIndex_eq_ok {c : BitVec 4 → Instr} :
    decodeIndex c top idx imm = .ok i ↔ imm = 0 ∧ idx.toNat ≤ top ∧ c idx = i := by
  simp [decodeIndex, ite_eq_iff]

/-- A command with both operands is spelled with `idx` in range (R42). -/
theorem decodeIndexByte_eq_ok {c : BitVec 4 → Byte → Instr} :
    decodeIndexByte c top idx imm = .ok i ↔ idx.toNat ≤ top ∧ c idx imm = i := by
  simp [decodeIndexByte, ite_eq_iff]

end DecodedForms

/-- What a word spells is a command with its index in range and with the opcode of the word (R42,
R44). -/
theorem wellFormed_and_opcode_of_decode {w : CmdWord} {i : Instr} (h : decode w = .ok i) :
    i.wellFormed = true ∧ opField w = i.opcode := by
  rw [decode, decodeFields] at h
  split at h
  case h_1 | h_2 | h_4 | h_7 | h_8 | h_11 =>
    obtain ⟨-, rfl⟩ := decodeBare_eq_ok.1 h
    exact ⟨rfl, BitVec.eq_of_toNat_eq ‹_›⟩
  case h_3 | h_5 | h_6 =>
    obtain ⟨-, rfl⟩ := decodeByte_eq_ok.1 h
    exact ⟨rfl, BitVec.eq_of_toNat_eq ‹_›⟩
  case h_9 | h_10 | h_14 =>
    obtain ⟨hidx, rfl⟩ := decodeIndexByte_eq_ok.1 h
    exact ⟨decide_eq_true hidx, BitVec.eq_of_toNat_eq ‹_›⟩
  case h_12 | h_13 | h_15 =>
    obtain ⟨-, hidx, rfl⟩ := decodeIndex_eq_ok.1 h
    exact ⟨decide_eq_true hidx, BitVec.eq_of_toNat_eq ‹_›⟩
  case h_16 => cases h

/-- Outside the fault state every word reports its fault (R45, R90). -/
theorem accept_reports {s : State} (he : s.err = false) (w : CmdWord) :
    Reports s (accept w s) (wordFault w s) := by
  rw [wordFault]
  cases hd : decode w with
  | error c => exact accept_of_decode_error he hd
  | ok i =>
    rw [accept_of_ok hd]
    exact exec_reports he (wellFormed_and_opcode_of_decode hd).1

/-! ### The table of R88

Rows 1 to 3 are the faults of the decoder, rows 4 to 7 the requirements of the command. -/

/-- The fault a decoder's answer carries. -/
def decodeFault : Except FaultCode Instr → Option FaultCode
  | .error c => some c
  | .ok _ => none

section DecodeFaults

variable (idx : BitVec 4) (imm : Byte) (top : Nat)

/-- With no operand a nonzero field is the cause of Fault(2) (R42, R88). -/
theorem decodeFault_decodeBare (i : Instr) :
    decodeFault (decodeBare i idx imm) =
      if idx ≠ 0 ∨ imm ≠ 0 then some .reservedField else none := by
  simp only [decodeBare, apply_ite decodeFault, ← not_and_or, ite_not, ne_eq]
  rfl

/-- With a byte operand only a nonzero `idx` is the cause of Fault(2) (R42, R88). -/
theorem decodeFault_decodeByte (c : Byte → Instr) :
    decodeFault (decodeByte c idx imm) = if idx = 0 then none else some .reservedField :=
  apply_ite ..

/-- With an index only the causes are a nonzero `imm`, then `idx` out of range (R42, R45, R88). -/
theorem decodeFault_decodeIndex (c : BitVec 4 → Instr) :
    decodeFault (decodeIndex c top idx imm) =
      if imm ≠ 0 then some .reservedField
      else if top < idx.toNat then some .indexRange
      else none := by
  rw [decodeIndex, apply_ite decodeFault, apply_ite decodeFault]
  rfl

/-- With both operands `idx` out of range is the cause of Fault(3) (R42, R88). -/
theorem decodeFault_decodeIndexByte (c : BitVec 4 → Byte → Instr) :
    decodeFault (decodeIndexByte c top idx imm) =
      if top < idx.toNat then some .indexRange else none :=
  apply_ite ..

end DecodeFaults

/-- A search for the first row looks at one row, then at the rest. -/
theorem find?_cons_eq_ite {α : Type} (p : α → Bool) (a : α) (l : List α) :
    (a :: l).find? p = if p a then some a else l.find? p := by
  rw [List.find?_cons]
  cases p a <;> rfl

/-- The first of rows 1 to 3 whose cause holds is the fault of the decoder: at each opcode the rows
are the conditions of its command form. -/
theorem find?_decode_rows (w : CmdWord) (s : State) :
    ([1, 2, 3].find? fun c => faultApplies c w s) =
      (decodeFault (decode w)).map fun c => (faultBits c).toNat := by
  rw [decode, decodeFields]
  split
  case h_16 =>
    have hop : (opField w).toNat = 15 := by
      have := (opField w).isLt
      grind
    simp [faultApplies, hop, decodeFault, faultBits]
  all_goals
    simp [find?_cons_eq_ite, faultApplies, *, decodeFault_decodeBare, decodeFault_decodeByte,
      decodeFault_decodeIndex, decodeFault_decodeIndexByte, apply_ite (Option.map _), faultBits,
      ← BitVec.toNat_inj]

/-- The first of rows 4 to 7 whose cause holds for the word of a command is the requirement the
command fails first. -/
theorem find?_requirement_rows {w : CmdWord} {i : Instr} (hop : opField w = i.opcode) (s : State) :
    ([4, 5, 6, 7].find? fun c => faultApplies c w s) =
      (requirementFault s i).map fun c => (faultBits c).toNat := by
  cases i <;>
    simp [find?_cons_eq_ite, faultApplies, hop, Instr.opcode, requirementFault,
      apply_ite (Option.map _), faultBits]

/-- The lowest code whose cause holds is the code of the fault the word raises: the decoder's
faults are the lower rows (R45, R89). -/
theorem lowestFault_eq (w : CmdWord) (s : State) :
    lowestFault w s = (wordFault w s).map fun c => (faultBits c).toNat := by
  have hrows : lowestFault w s = ([1, 2, 3].find? fun c => faultApplies c w s).or
      ([4, 5, 6, 7].find? fun c => faultApplies c w s) :=
    List.find?_append (xs := [1, 2, 3])
  rw [hrows, find?_decode_rows, wordFault]
  cases hd : decode w with
  | error c => rfl
  | ok i => exact find?_requirement_rows (wellFormed_and_opcode_of_decode hd).2 s

/-- Settles O28: the word reports `wordFault`, which is the lowest code of the table. -/
theorem lowestApplicableFaultIsReported : Obligations.LowestApplicableFaultIsReported := by
  intro s w he
  have hrep := accept_reports he w
  simp only [lowestFault_eq]
  refine ⟨fun c hc => ?_, fun hnone => ?_, fun hhv => ⟨rfl, rfl, ?_⟩, fun hbv => ?_⟩
  · obtain ⟨f, hf, rfl⟩ := Option.map_eq_some_iff.1 hc
    rw [hf] at hrep
    simpa [Reports] using hrep
  · rwa [Option.map_eq_none_iff.1 hnone] at hrep
  · rw [wordFault, show decode 0xB000 = .ok (.rdh 0) from rfl]
    simp [requirementFault, hhv, faultBits]
  · rw [wordFault, show decode 0xA000 = .ok .hdr from rfl]
    simp [requirementFault, hbv, faultBits]

end Sys2Proof.Machine

/-! ## The encoding

The word of every legal command decodes back to it and a word that decodes is the word of its
command (R41, R42); the legal words as the rows of the opcode map (R44); and how many words the
decoder gives each answer (R46). -/

namespace Sys2Proof.Machine

/-! ### Decoder and encoder -/

/-- Settles O23: each command form is spelled with its unused fields zero and, where it has an
index, with that in range. -/
theorem decodeOfEncode : Obligations.DecodeOfEncode := by
  intro i hi
  cases i with
  | nop | seed | ksb | save | rest | hdr => rfl
  | adv imm => exact decode_encode_adv imm
  | enc imm => exact decode_encode_enc imm
  | dec imm => exact decode_packWord 5 0 imm
  | ldr idx imm => exact decode_index_byte (op := 0x8) (fun _ _ => rfl) (of_decide_eq_true hi) imm
  | ldc idx imm => exact decode_encode_ldc (of_decide_eq_true hi) imm
  | rdh idx => exact decode_index (op := 0xB) (fun _ _ => rfl) (of_decide_eq_true hi)
  | rdk idx => exact decode_index (op := 0xC) (fun _ _ => rfl) (of_decide_eq_true hi)
  | wrk idx imm => exact decode_index_byte (op := 0xD) (fun _ _ => rfl) (of_decide_eq_true hi) imm
  | rds idx => exact decode_index (op := 0xE) (fun _ _ => rfl) (of_decide_eq_true hi)

/-- What a word spells has the operands of the word; a field the command does not use is zero
(R42). -/
theorem operands_of_decode {w : CmdWord} {i : Instr} (h : decode w = .ok i) :
    idxField w = i.idxField ∧ immField w = i.immField := by
  rw [decode, decodeFields] at h
  split at h
  case h_1 | h_2 | h_4 | h_7 | h_8 | h_11 =>
    obtain ⟨hzero, rfl⟩ := decodeBare_eq_ok.1 h
    exact hzero
  case h_3 | h_5 | h_6 =>
    obtain ⟨hidx, rfl⟩ := decodeByte_eq_ok.1 h
    exact ⟨hidx, rfl⟩
  case h_9 | h_10 | h_14 =>
    obtain ⟨-, rfl⟩ := decodeIndexByte_eq_ok.1 h
    exact ⟨rfl, rfl⟩
  case h_12 | h_13 | h_15 =>
    obtain ⟨himm, -, rfl⟩ := decodeIndex_eq_ok.1 h
    exact ⟨rfl, himm⟩
  case h_16 => cases h

/-- Settles O24: the three fields of the word are those of the command, and a word is given by its
fields. -/
theorem encodeOfDecode : Obligations.EncodeOfDecode := by
  intro w i h
  obtain ⟨hwf, hop⟩ := wellFormed_and_opcode_of_decode h
  obtain ⟨hidx, himm⟩ := operands_of_decode h
  refine ⟨hwf, ?_⟩
  rw [encode, ← hop, ← hidx, ← himm, packWord_fields]

/-- Settles O3: the decoder on one word of each command and on eight illegal words. -/
theorem sampleWordsDecode : Obligations.SampleWordsDecode := by
  unfold Obligations.SampleWordsDecode
  decide

/-! ### The opcode map -/

/-- A word is given by its three fields (R41). -/
theorem word_ext_iff {v w : CmdWord} :
    v = w ↔ opField v = opField w ∧ idxField v = idxField w ∧ immField v = immField w := by
  refine ⟨fun h => by simp [h], fun ⟨hop, hidx, himm⟩ => ?_⟩
  rw [← packWord_fields v, hop, hidx, himm, packWord_fields]

/-- A word matches a row exactly when each field, cut by that field of the mask, is that field of
the pattern (R44). -/
theorem matches_iff {w : CmdWord} {row : OpcodeRow} :
    w &&& row.mask = row.pattern ↔
      opField w &&& opField row.mask = opField row.pattern ∧
      idxField w &&& idxField row.mask = idxField row.pattern ∧
      immField w &&& immField row.mask = immField row.pattern := by
  rw [word_ext_iff]
  simp only [opField, idxField, immField, slice, BitVec.extractLsb'_and]

/-- A mask that keeps a whole 4-bit field. -/
theorem nibble_and_mask (x : BitVec 4) : x &&& 0xF = x := BitVec.and_allOnes

/-- A mask that keeps the whole byte field. -/
theorem byte_and_mask (x : Byte) : x &&& 0xFF = x := BitVec.and_allOnes

/-- The mask of every row keeps the opcode (R44). -/
theorem opField_mask {row : OpcodeRow} (h : row ∈ opcodeRows) : opField row.mask = 0xF := by
  revert row; decide

/-- No two rows have one opcode (R44). -/
theorem eq_of_opField_pattern_eq :
    ∀ a ∈ opcodeRows, ∀ b ∈ opcodeRows, opField a.pattern = opField b.pattern → a = b := by
  decide

/-- A word that matches a row has the opcode of the row (R44). -/
theorem opField_of_matches {w : CmdWord} {row : OpcodeRow} (hrow : row ∈ opcodeRows)
    (h : w &&& row.mask = row.pattern) : opField w = opField row.pattern := by
  obtain ⟨hop, -⟩ := matches_iff.1 h
  rwa [opField_mask hrow, nibble_and_mask] at hop

/-- A word is legal exactly when the decoder gives it no fault. -/
theorem exists_decode_iff {d : Except FaultCode Instr} :
    (∃ i, d = .ok i) ↔ decodeFault d = none := by
  cases d <;> simp [decodeFault]

section RowForms

variable (idx : BitVec 4) (imm : Byte) (top : Nat)

/-- The row of a command with no operand fixes both fields (R42, R44). -/
theorem bare_row_iff (i : Instr) :
    (idx &&& 0xF = 0 ∧ imm &&& 0xFF = 0) ∧ idx.toNat ≤ 0 ↔
      decodeFault (decodeBare i idx imm) = none := by
  rw [nibble_and_mask, byte_and_mask, decodeFault_decodeBare]
  simp +contextual

/-- The row of a command with a byte operand only fixes `idx` (R42, R44). -/
theorem byte_row_iff (c : Byte → Instr) :
    (idx &&& 0xF = 0 ∧ imm &&& 0 = 0) ∧ idx.toNat ≤ 0 ↔
      decodeFault (decodeByte c idx imm) = none := by
  rw [nibble_and_mask, decodeFault_decodeByte]
  simp +contextual

/-- The row of a command with an index only fixes `imm` (R42, R44). -/
theorem index_row_iff (c : BitVec 4 → Instr) :
    (idx &&& 0 = 0 ∧ imm &&& 0xFF = 0) ∧ idx.toNat ≤ top ↔
      decodeFault (decodeIndex c top idx imm) = none := by
  rw [byte_and_mask, decodeFault_decodeIndex]
  simp [ite_eq_iff]

/-- The row of a command with both operands fixes neither field (R42, R44). -/
theorem index_byte_row_iff (c : BitVec 4 → Byte → Instr) :
    (idx &&& 0 = 0 ∧ imm &&& 0 = 0) ∧ idx.toNat ≤ top ↔
      decodeFault (decodeIndexByte c top idx imm) = none := by
  rw [decodeFault_decodeIndexByte]
  simp

end RowForms

/-- At the opcode of a row the row asks for what the command form of that opcode asks for (R42,
R44). -/
theorem matches_row_iff {row : OpcodeRow} (hrow : row ∈ opcodeRows) {w : CmdWord}
    (hop : opField w = opField row.pattern) :
    (w &&& row.mask = row.pattern ∧ (idxField w).toNat ≤ row.top) ↔
      decodeFault (decode w) = none := by
  rw [matches_iff, decode, hop, opField_mask hrow, nibble_and_mask, eq_self, true_and]
  simp only [opcodeRows, List.mem_cons, List.not_mem_nil, or_false] at hrow
  rcases hrow with rfl | rfl | rfl | rfl | rfl | rfl | rfl | rfl | rfl | rfl | rfl | rfl | rfl |
    rfl | rfl
  exacts [bare_row_iff .., bare_row_iff .., byte_row_iff .., bare_row_iff .., byte_row_iff ..,
    byte_row_iff .., bare_row_iff .., bare_row_iff .., index_byte_row_iff .., index_byte_row_iff ..,
    bare_row_iff .., index_row_iff .., index_row_iff .., index_byte_row_iff .., index_row_iff ..]

/-- Every opcode but the reserved one has a row (R44). -/
theorem exists_row_of_opcode_ne :
    ∀ op : BitVec 4, op ≠ 0xF → ∃ row ∈ opcodeRows, op = opField row.pattern := by
  decide

/-- No command has the reserved opcode (R44). -/
theorem opcode_ne_reserved (i : Instr) : i.opcode ≠ 0xF := by
  cases i <;> simp [Instr.opcode]

/-- Settles O25: the mask of every row keeps the opcode, so only the row of the word's opcode can
match, and there row and decoder agree. -/
theorem legalWordsMatchOpcodeTable : Obligations.LegalWordsMatchOpcodeTable := by
  refine ⟨fun w => ⟨fun ⟨i, hi⟩ => ?_, fun ⟨row, hrow, hmatch, htop⟩ => ?_⟩,
    fun w a ha b hb hwa hwb => ?_⟩
  · obtain ⟨row, hrow, hop⟩ := exists_row_of_opcode_ne (opField w) <| by
      rw [(wellFormed_and_opcode_of_decode hi).2]
      exact opcode_ne_reserved i
    exact ⟨row, hrow, (matches_row_iff hrow hop).2 (by rw [hi, decodeFault])⟩
  · exact exists_decode_iff.2
      ((matches_row_iff hrow (opField_of_matches hrow hmatch)).1 ⟨hmatch, htop⟩)
  · exact eq_of_opField_pattern_eq a ha b hb
      ((opField_of_matches ha hwa).symm.trans (opField_of_matches hb hwb))

/-! ### The counts of R46 -/

/-- The number of words of which `legal` have no decode fault and the others the three decode faults
in the order of R45, as far as `q` counts them. -/
def tally (q : Option FaultCode → Bool) (legal opcode field range : Nat) : Nat :=
  legal * (q none).toNat + opcode * (q (some .reservedOpcode)).toNat +
    field * (q (some .reservedField)).toNat + range * (q (some .indexRange)).toNat

section Counts

/-- Of the 256 values of the byte field one is zero. -/
theorem countP_imm (a b : Bool) :
    ((List.range 256).countP fun n => if BitVec.ofNat 8 n = 0 then a else b) =
      a.toNat + 255 * b.toNat := by
  revert a b; decide +kernel

/-- A count that does not look at the byte field. -/
theorem countP_imm_const (a : Bool) : ((List.range 256).countP fun _ => a) = 256 * a.toNat := by
  cases a <;> simp

/-- A sum of two values, by how often each occurs. -/
theorem sum_map_ite_eq (p : Nat → Bool) (x y : Nat) (l : List Nat) :
    (l.map fun n => if p n then x else y).sum = l.countP p * x + (l.countP (!p ·)) * y := by
  induction l with
  | nil => simp
  | cons a l ih => cases h : p a <;> simp [h, ih] <;> ring

/-- Of the 16 values of the index field `top + 1` are in range. -/
theorem sum_idx {top : Nat} (htop : top < 16) (x y : Nat) :
    ((List.range 16).map fun n => if top < (BitVec.ofNat 4 n).toNat then x else y).sum =
      (15 - top) * x + (top + 1) * y := by
  have hcount : ∀ top < 16,
      (List.range 16).countP (fun n => decide (top < (BitVec.ofNat 4 n).toNat)) = 15 - top ∧
        (List.range 16).countP (fun n => !decide (top < (BitVec.ofNat 4 n).toNat)) = top + 1 := by
    decide
  obtain ⟨habove, hin⟩ := hcount top htop
  rw [← habove, ← hin, ← sum_map_ite_eq]
  simp only [decide_eq_true_eq]

/-- An index field is above 0 exactly when it is not 0. -/
theorem zero_lt_toNat_iff (idx : BitVec 4) : 0 < idx.toNat ↔ ¬ idx = 0 := by
  rw [Nat.pos_iff_ne_zero, ne_eq, ← BitVec.toNat_inj]
  rfl

variable {q : Option FaultCode → Bool} {op top : Nat}

/-- The words of an opcode, counted index by index: `x` at each index above `top`, `y` at each
other. -/
theorem countWordsOf_eq {f : BitVec 4 → Byte → Except FaultCode Instr} (htop : top < 16) (x y : Nat)
    (hform : ∀ idx imm, decodeFields (BitVec.ofNat 4 op) idx imm = f idx imm)
    (hcount : ∀ idx : BitVec 4,
      ((List.range 256).countP fun imm => q (decodeFault (f idx (BitVec.ofNat 8 imm)))) =
        if top < idx.toNat then x else y) :
    countWordsOf (fun d => q (decodeFault d)) op = (15 - top) * x + (top + 1) * y := by
  simp only [countWordsOf, decode_packWord, hform, hcount, sum_idx htop]

/-- The words of an opcode with no operand: one is legal (R42, R46). -/
theorem countWordsOf_bare {i : Instr}
    (hform : ∀ idx imm, decodeFields (BitVec.ofNat 4 op) idx imm = decodeBare i idx imm) :
    countWordsOf (fun d => q (decodeFault d)) op = tally q 1 0 4095 0 := by
  rw [countWordsOf_eq (top := 0) (by decide) (256 * (q (some .reservedField)).toNat)
    ((q none).toNat + 255 * (q (some .reservedField)).toNat) hform, tally]
  · omega
  · intro idx
    simp only [decodeFault_decodeBare, zero_lt_toNat_iff]
    by_cases hidx : idx = 0
    · simp only [hidx, ne_eq, not_true, false_or, ite_not, apply_ite q, countP_imm, if_false]
    · simp only [hidx, ne_eq, not_false_iff, true_or, if_true, countP_imm_const]

/-- The words of an opcode with a byte operand only: those of one index are legal (R42, R46). -/
theorem countWordsOf_byte {c : Byte → Instr}
    (hform : ∀ idx imm, decodeFields (BitVec.ofNat 4 op) idx imm = decodeByte c idx imm) :
    countWordsOf (fun d => q (decodeFault d)) op = tally q 256 0 3840 0 := by
  rw [countWordsOf_eq (top := 0) (by decide) (256 * (q (some .reservedField)).toNat)
    (256 * (q none).toNat) hform, tally]
  · omega
  · intro idx
    simp only [decodeFault_decodeByte, countP_imm_const, zero_lt_toNat_iff, ite_not, apply_ite q,
      apply_ite Bool.toNat, mul_ite]

/-- The words of an opcode with an index only: one is legal at each index in range (R42, R46). -/
theorem countWordsOf_index {c : BitVec 4 → Instr} (htop : top < 16)
    (hform : ∀ idx imm, decodeFields (BitVec.ofNat 4 op) idx imm = decodeIndex c top idx imm) :
    countWordsOf (fun d => q (decodeFault d)) op = tally q (top + 1) 0 4080 (15 - top) := by
  rw [countWordsOf_eq htop ((q (some .indexRange)).toNat + 255 * (q (some .reservedField)).toNat)
    ((q none).toNat + 255 * (q (some .reservedField)).toNat) hform, tally]
  · have : (15 - top) + (top + 1) = 16 := by omega
    linear_combination (255 * (q (some .reservedField)).toNat) * this
  · intro idx
    simp only [decodeFault_decodeIndex, ite_not, apply_ite q, countP_imm, apply_ite Bool.toNat,
      ite_add]

/-- The words of an opcode with both operands: those of each index in range are legal (R42, R46). -/
theorem countWordsOf_indexByte {c : BitVec 4 → Byte → Instr} (htop : top < 16)
    (hform : ∀ idx imm, decodeFields (BitVec.ofNat 4 op) idx imm = decodeIndexByte c top idx imm) :
    countWordsOf (fun d => q (decodeFault d)) op =
      tally q (256 * (top + 1)) 0 0 (256 * (15 - top)) := by
  rw [countWordsOf_eq htop (256 * (q (some .indexRange)).toNat) (256 * (q none).toNat) hform, tally]
  · ring
  · intro idx
    simp only [decodeFault_decodeIndexByte, countP_imm_const, apply_ite q, apply_ite Bool.toNat,
      mul_ite]

/-- The words of the reserved opcode: none is legal (R45, R86). -/
theorem countWordsOf_reserved
    (hform : ∀ idx imm, decodeFields (BitVec.ofNat 4 op) idx imm = .error .reservedOpcode) :
    countWordsOf (fun d => q (decodeFault d)) op = tally q 0 4096 0 0 := by
  rw [countWordsOf_eq (top := 0) (by decide) (256 * (q (some .reservedOpcode)).toNat)
    (256 * (q (some .reservedOpcode)).toNat) hform, tally]
  · omega
  · intro idx
    simp only [decodeFault, countP_imm_const, ite_self]

/-- All words by their decode fault: six opcodes with no operand, three with a byte, three with an
index, three with both and the reserved one (R44, R46). -/
theorem countWords_eq (q : Option FaultCode → Bool) :
    countWords (fun d => q (decodeFault d)) = tally q 7457 4096 48330 5653 := by
  have hops : List.range 16 = [0, 1, 2, 3, 4, 5, 6, 7, 8, 9, 10, 11, 12, 13, 14, 15] := rfl
  rw [countWords, hops]
  simp only [List.map_cons, List.map_nil, List.sum_cons, List.sum_nil]
  rw [countWordsOf_bare (op := 0) fun _ _ => rfl, countWordsOf_bare (op := 1) fun _ _ => rfl,
    countWordsOf_byte (op := 2) fun _ _ => rfl, countWordsOf_bare (op := 3) fun _ _ => rfl,
    countWordsOf_byte (op := 4) fun _ _ => rfl, countWordsOf_byte (op := 5) fun _ _ => rfl,
    countWordsOf_bare (op := 6) fun _ _ => rfl, countWordsOf_bare (op := 7) fun _ _ => rfl,
    countWordsOf_indexByte (op := 8) (top := 11) (by decide) fun _ _ => rfl,
    countWordsOf_indexByte (op := 9) (top := 1) (by decide) fun _ _ => rfl,
    countWordsOf_bare (op := 10) fun _ _ => rfl,
    countWordsOf_index (op := 11) (top := 11) (by decide) fun _ _ => rfl,
    countWordsOf_index (op := 12) (top := 11) (by decide) fun _ _ => rfl,
    countWordsOf_indexByte (op := 13) (top := 11) (by decide) fun _ _ => rfl,
    countWordsOf_index (op := 14) (top := 2) (by decide) fun _ _ => rfl,
    countWordsOf_reserved (op := 15) fun _ _ => rfl]
  simp only [tally]
  omega

end Counts

/-- Settles O26: each of the four counts looks only at the decode fault. -/
theorem wordClassificationCounts : Obligations.WordClassificationCounts := by
  have hcount (p : Except FaultCode Instr → Bool) (q : Option FaultCode → Bool)
      (hpq : p = fun d => q (decodeFault d)) : countWords p = tally q 7457 4096 48330 5653 :=
    hpq ▸ countWords_eq q
  refine ⟨hcount _ (· == none) ?_, hcount _ (· == some .reservedOpcode) ?_,
    hcount _ (· == some .reservedField) ?_, hcount _ (· == some .indexRange) ?_⟩
  all_goals
    funext d
    cases d with
    | ok i => rfl
    | error c => cases c <;> rfl

end Sys2Proof.Machine

/-! ## The assembler

How a line falls into its pieces, that the digits written are read back, and that a line of the text
of a legal command, or of a raw word, gives that word (R48; log entry 13). -/

namespace Sys2Proof.Machine

/-! ### The pieces of a line -/

/-- A character that stands for itself in a line: no quote, no separator, no start of a comment. -/
def plainChar (c : Char) : Bool := c ≠ '\'' && c ≠ ';' && c ≠ ',' && c ≠ ' ' && c ≠ '\t'

/-- A plain character goes into the word read so far. -/
theorem tokens_plain_cons {c : Char} (hc : plainChar c = true) (acc rest : List Char) :
    tokens acc (c :: rest) = tokens (c :: acc) rest := by
  simp only [plainChar, Bool.and_eq_true, decide_eq_true_eq] at hc
  obtain ⟨⟨⟨⟨hquote, hsemi⟩, hcomma⟩, hspace⟩, htab⟩ := hc
  rw [tokens]
  · simp [hsemi, hcomma, hspace, htab]
  · exact fun _ _ h => absurd h hquote

/-- A space ends the word read so far. -/
theorem tokens_space_cons (acc rest : List Char) :
    tokens acc (' ' :: rest) = flushWord acc (tokens [] rest) := by
  simp [tokens]

/-- A comma ends the word read so far and is a piece itself. -/
theorem tokens_comma_cons (acc rest : List Char) :
    tokens acc (',' :: rest) = flushWord acc (.comma :: tokens [] rest) := by
  simp [tokens]

/-- A run of plain characters goes into the word read so far. -/
theorem tokens_plain_append {cs : List Char} (hcs : cs.all plainChar = true)
    (acc rest : List Char) : tokens acc (cs ++ rest) = tokens (cs.reverse ++ acc) rest := by
  induction cs generalizing acc with
  | nil => rfl
  | cons c cs ih =>
    obtain ⟨hc, hcs⟩ := Bool.and_eq_true_iff.1 ((List.all_cons ..).symm.trans hcs)
    rw [List.cons_append, tokens_plain_cons hc, ih hcs]
    simp

/-- A word of plain characters with at least one. -/
def plainWord (cs : List Char) : Bool := !cs.isEmpty && cs.all plainChar

section Words

variable {cs : List Char} (hcs : plainWord cs = true)
include hcs

/-- A word read in full is a piece. -/
theorem flushWord_reverse (rest : List Token) : flushWord cs.reverse rest = .word cs :: rest := by
  obtain ⟨hne, -⟩ := Bool.and_eq_true_iff.1 hcs
  simpa [flushWord] using hne

/-- A word at the start of a line is read until something ends it. -/
theorem tokens_word_append (rest : List Char) :
    tokens [] (cs ++ rest) = tokens cs.reverse rest := by
  obtain ⟨-, hall⟩ := Bool.and_eq_true_iff.1 hcs
  rw [tokens_plain_append hall, List.append_nil]

/-- A line of one word. -/
theorem tokens_word : tokens [] cs = [.word cs] := by
  have h := tokens_word_append hcs []
  rw [List.append_nil] at h
  rw [h, tokens, flushWord_reverse hcs]

/-- A line of a word, a space and more. -/
theorem tokens_word_space (rest : List Char) :
    tokens [] (cs ++ ' ' :: rest) = .word cs :: tokens [] rest := by
  rw [tokens_word_append hcs, tokens_space_cons, flushWord_reverse hcs]

/-- A line of a word, a comma, a space and more. -/
theorem tokens_word_comma (rest : List Char) :
    tokens [] (cs ++ ',' :: ' ' :: rest) = .word cs :: .comma :: tokens [] rest := by
  rw [tokens_word_append hcs, tokens_comma_cons, flushWord_reverse hcs, tokens_space_cons]
  rfl

end Words

/-! ### Digits and operands -/

/-- The two characters that start a hexadecimal number are plain. -/
theorem hexMark_plain : plainChar '0' = true ∧ plainChar 'x' = true := by decide

/-- A hexadecimal digit is plain and is read back (R48). -/
theorem hexDigit_read :
    ∀ n < 16, plainChar (hexDigit n) = true ∧ hexValue (hexDigit n) = some n := by
  decide

/-- A byte is written as one word, which is read back (R48). -/
theorem immText_read (v : Byte) :
    plainWord (immText v) = true ∧ readImm (.word (immText v)) = some v := by
  have hv := v.isLt
  obtain ⟨hhigh, hhigh'⟩ := hexDigit_read (v.toNat / 16) (by omega)
  obtain ⟨hlow, hlow'⟩ := hexDigit_read (v.toNat % 16) (by omega)
  refine ⟨by simp [plainWord, immText, hexMark_plain, hhigh, hlow], ?_⟩
  have hvalue : v.toNat / 16 * 16 + v.toNat % 16 = v.toNat := by omega
  simp [readImm, readHex, immText, readDigits, hhigh', hlow', hvalue, hv]

/-- An index is written as one word, which is read back (R48). -/
theorem idxText_read :
    ∀ v : BitVec 4, plainWord (idxText v) = true ∧ readIdx (.word (idxText v)) = some v := by
  decide

/-- The number of a raw word as `rawText` writes it (R48). -/
def rawNumber (w : CmdWord) : List Char :=
  ['0', 'x', hexDigit (w.toNat / 4096), hexDigit (w.toNat / 256 % 16),
    hexDigit (w.toNat / 16 % 16), hexDigit (w.toNat % 16)]

/-- The number of a raw word is one word of a line, which is read back (R48). -/
theorem rawNumber_read (w : CmdWord) :
    plainWord (rawNumber w) = true ∧ readHex 65536 (rawNumber w) = some w.toNat := by
  have hw := w.isLt
  obtain ⟨h3, h3'⟩ := hexDigit_read (w.toNat / 4096) (by omega)
  obtain ⟨h2, h2'⟩ := hexDigit_read (w.toNat / 256 % 16) (by omega)
  obtain ⟨h1, h1'⟩ := hexDigit_read (w.toNat / 16 % 16) (by omega)
  obtain ⟨h0, h0'⟩ := hexDigit_read (w.toNat % 16) (by omega)
  refine ⟨by simp [plainWord, rawNumber, hexMark_plain, h3, h2, h1, h0], ?_⟩
  have hvalue : ((w.toNat / 4096 * 16 + w.toNat / 256 % 16) * 16 + w.toNat / 16 % 16) * 16 +
      w.toNat % 16 = w.toNat := by omega
  simp [readHex, rawNumber, readDigits, h3', h2', h1', h0', hvalue, hw]

/-! ### Lines -/

/-- A program of one line that stands for a word. -/
theorem assemble_line {line : List Char} {t : Token} {ts : List Token} {w : CmdWord}
    (hline : tokens [] line = t :: ts) (hw : assembleTokens (t :: ts) = some w) :
    assemble [line] = some [w] := by
  simp [assemble, hline, hw]

/-- A legal command is taken (R42). -/
theorem legalWord_of_wellFormed {i : Instr} (hi : i.wellFormed = true) :
    legalWord i = some (encode i) := by rw [legalWord, if_pos hi]

section CommandLines

variable {m : List Char} (hm : plainWord m = true)
include hm

/-- The line of a command with no operand. -/
theorem assemble_bare {i : Instr} (hi : i.wellFormed = true) (hmnem : bareMnemonic m = some i) :
    assemble [m] = some [encode i] := by
  refine assemble_line (tokens_word hm) ?_
  rw [assembleTokens, hmnem, Option.bind_some, legalWord_of_wellFormed hi]

/-- The line of a command with one operand. -/
theorem assemble_one {i : Instr} (hi : i.wellFormed = true) {a : List Char}
    (ha : plainWord a = true) (hraw : m ≠ ['.', 'w', 'o', 'r', 'd'])
    (hmnem : oneOperand m (.word a) = some i) :
    assemble [m ++ ' ' :: a] = some [encode i] := by
  refine assemble_line ((tokens_word_space hm a).trans (congrArg _ (tokens_word ha))) ?_
  rw [assembleTokens]
  · simp [hmnem, legalWord_of_wellFormed hi]
  · exact fun _ h => absurd h hraw

/-- The line of a command with two operands. -/
theorem assemble_two {i : Instr} (hi : i.wellFormed = true) {a b : List Char}
    (ha : plainWord a = true) (hb : plainWord b = true)
    (hmnem : twoOperands m (.word a) (.word b) = some i) :
    assemble [m ++ ' ' :: (a ++ ',' :: ' ' :: b)] = some [encode i] := by
  refine assemble_line ((tokens_word_space hm _).trans
    (congrArg _ ((tokens_word_comma ha b).trans (congrArg _ (congrArg _ (tokens_word hb)))))) ?_
  rw [assembleTokens, hmnem, Option.bind_some, legalWord_of_wellFormed hi]

/-- The line of a command with a byte operand only (R48). -/
theorem assemble_byte {c : Byte → Instr} (hmnem : byteMnemonic m = some c) (imm : Byte)
    (hi : (c imm).wellFormed = true) :
    assemble [m ++ ' ' :: immText imm] = some [encode (c imm)] := by
  obtain ⟨hword, himm⟩ := immText_read imm
  refine assemble_one hm hi hword ?_ (by rw [oneOperand, hmnem, himm]; rfl)
  rintro rfl
  cases hmnem

/-- The line of a command with an index operand only (R48). -/
theorem assemble_index {c : BitVec 4 → Instr} (hbyte : byteMnemonic m = none)
    (hmnem : indexMnemonic m = some c) (idx : BitVec 4) (hi : (c idx).wellFormed = true) :
    assemble [m ++ ' ' :: idxText idx] = some [encode (c idx)] := by
  obtain ⟨hword, hidx⟩ := idxText_read idx
  refine assemble_one hm hi hword ?_ (by rw [oneOperand, hbyte, hmnem, hidx]; rfl)
  rintro rfl
  cases hmnem

/-- The line of a command with both operands (R48). -/
theorem assemble_index_byte {c : BitVec 4 → Byte → Instr} (hmnem : indexByteMnemonic m = some c)
    (idx : BitVec 4) (imm : Byte) (hi : (c idx imm).wellFormed = true) :
    assemble [m ++ [' '] ++ idxText idx ++ [',', ' '] ++ immText imm] =
      some [encode (c idx imm)] := by
  obtain ⟨hidxWord, hidx⟩ := idxText_read idx
  obtain ⟨himmWord, himm⟩ := immText_read imm
  simp only [List.append_assoc, List.cons_append, List.nil_append]
  exact assemble_two hm hi hidxWord himmWord (by rw [twoOperands, hmnem, hidx, himm])

end CommandLines

/-- The line of a raw word (R48). -/
theorem assemble_rawText (w : CmdWord) : assemble [rawText w] = some [w] := by
  obtain ⟨hword, hnumber⟩ := rawNumber_read w
  have hdirective : plainWord ['.', 'w', 'o', 'r', 'd'] = true := by decide
  refine assemble_line (ts := [.word (rawNumber w)])
    ((tokens_word_space hdirective (rawNumber w)).trans (congrArg _ (tokens_word hword))) ?_
  rw [assembleTokens, hnumber, Option.map_some, BitVec.ofNat_toNat, BitVec.setWidth_eq]

/-- Settles O27: a line is its mnemonic and the text of its operands, by command form. -/
theorem assemblerReadsWhatItWrites : Obligations.AssemblerReadsWhatItWrites := by
  refine ⟨fun i hi => ?_, assemble_rawText⟩
  cases i with
  | nop | seed | ksb | save | rest | hdr => exact assemble_bare (by decide) rfl rfl
  | adv imm => exact assemble_byte (m := ['A', 'D', 'V']) (by decide) rfl imm rfl
  | enc imm => exact assemble_byte (m := ['E', 'N', 'C']) (by decide) rfl imm rfl
  | dec imm => exact assemble_byte (m := ['D', 'E', 'C']) (by decide) rfl imm rfl
  | rdh idx => exact assemble_index (m := ['R', 'D', 'H']) (by decide) rfl rfl idx hi
  | rdk idx => exact assemble_index (m := ['R', 'D', 'K']) (by decide) rfl rfl idx hi
  | rds idx => exact assemble_index (m := ['R', 'D', 'S']) (by decide) rfl rfl idx hi
  | ldr idx imm => exact assemble_index_byte (m := ['L', 'D', 'R']) (by decide) rfl idx imm hi
  | ldc idx imm => exact assemble_index_byte (m := ['L', 'D', 'C']) (by decide) rfl idx imm hi
  | wrk idx imm => exact assemble_index_byte (m := ['W', 'R', 'K']) (by decide) rfl idx imm hi

end Sys2Proof.Machine

/-! ## What commands keep

No command clears a valid flag but HDR those of its inputs (R14 to R19), each register has its
writers (10_state.md section 1), and the read commands change nothing (R34). -/

namespace Sys2Proof.Machine

/-- A command that meets no fault clears none of KV, BV and HV (R14, R16, R19). -/
theorem Effect.keeps_flags {i : Instr} {s t : State} (h : Effect i s t) :
    (s.kv = true → t.kv = true) ∧ (s.bv = true → t.bv = true) ∧ (s.hv = true → t.hv = true) := by
  cases h <;> simp

/-- A command other than HDR clears no bit of RV and none of CV (R17, R18). -/
theorem Effect.keeps_input_flags {i : Instr} {s t : State} (h : Effect i s t) (hi : i ≠ .hdr) :
    (∀ j, s.rv.getLsbD j = true → t.rv.getLsbD j = true) ∧
      (∀ j, s.cv.getLsbD j = true → t.cv.getLsbD j = true) := by
  cases h with
  | hdr => exact absurd rfl hi
  | ldr => exact ⟨fun j hj => by simp [markRandom, hj], fun j hj => hj⟩
  | ldc => exact ⟨fun j hj => hj, fun j hj => by simp [markCheck, hj]⟩
  | _ => exact ⟨fun j hj => hj, fun j hj => hj⟩

/-- Settles O31: the recorded answer and a fault keep every flag, an effect keeps those it may not
clear. -/
theorem onlyResetClearsValidFlags : Obligations.OnlyResetClearsValidFlags := by
  intro s t w h
  obtain ⟨u, hu, hcases⟩ := accept_cases w s
  cases hu.symm.trans h
  obtain ⟨he, rfl⟩ | ⟨he, ⟨c, rfl⟩ | ⟨i, hi, heff⟩⟩ := hcases
  · simp
  · simp [he]
  · obtain ⟨hkv, hbv, hhv⟩ := heff.keeps_flags
    refine ⟨hkv, hbv, hhv, by simp [he], fun hne => heff.keeps_input_flags fun hhdr => ?_⟩
    exact hne (hhdr ▸ hi)

/-- Settles O32: an effect changes what its command writes; a fault and the recorded answer change
no register and no valid flag. -/
theorem registersChangeOnlyByTheirWriters : Obligations.RegistersChangeOnlyByTheirWriters := by
  intro i s t h
  obtain ⟨-, rfl⟩ | ⟨-, heff | ⟨c, rfl⟩⟩ := exec_cases h
  · simp
  · cases heff <;> simp [writesK]
  · simp

/-- No command but SAVE changes B or BV (R15, R16). -/
theorem exec_keeps_base {i : Instr} {s t : State} (hi : i ≠ .save) (h : exec i s = .next t) :
    t.b = s.b ∧ t.bv = s.bv := by
  obtain ⟨-, hbase, -⟩ := registersChangeOnlyByTheirWriters i s t h
  exact hbase hi

/-- An answer that is delivered and given again is the same response (R34). -/
theorem answered_deliver_respond (d : Byte) (s : State) :
    (answered d (deliver (respond d s))).rsp = (respond d s).rsp := by
  rw [respond_eq_answered]
  rfl

/-- Settles O33: the effect of a read command is its answer alone, so the same command meets the
same state again. -/
theorem readCommandsHaveNoSideEffect : Obligations.ReadCommandsHaveNoSideEffect := by
  intro i s t hread h
  obtain ⟨he, rfl⟩ | ⟨he, heff | ⟨c, rfl⟩⟩ := exec_cases h
  · exact ⟨rfl, fun hlive => absurd (he.symm.trans hlive) (by simp)⟩
  · obtain rfl | ⟨idx, rfl⟩ | ⟨idx, rfl⟩ | ⟨idx, rfl⟩ := hread
    · cases heff with
      | ksb _ hkv =>
        exact ⟨rfl, fun _ => ⟨_, exec_ksb (by exact he) (by exact hkv),
          answered_deliver_respond _ _, rfl⟩⟩
    · cases heff with
      | rdh _ _ i hi hhv =>
        exact ⟨rfl, fun _ => ⟨_, exec_rdh (by exact he) hi (by exact hhv),
          answered_deliver_respond _ _, rfl⟩⟩
    · cases heff with
      | rdk _ _ i hi hkv =>
        exact ⟨rfl, fun _ => ⟨_, exec_rdk (by exact he) hi (by exact hkv),
          answered_deliver_respond _ _, rfl⟩⟩
    · cases heff with
      | rds _ _ i hi =>
        exact ⟨rfl, fun _ => ⟨_, exec_rds (by exact he) hi, answered_deliver_respond _ _, rfl⟩⟩
  · exact ⟨rfl, fun hlive => absurd hlive (by simp)⟩

end Sys2Proof.Machine

/-! ## The ports and the step

What a port cycle does, case by case (R40, R98), that every step answers a next state (R46, R110),
that every step keeps the invariant (R22, R43, V9), and that the port cycles of a host that never
stalls run its words in order (R36, R40). -/

namespace Sys2Proof.Machine

section PortCycles

variable {s : State} {c : HostCycle} {rest : List HostCycle}

/-- A step with no port cycle to come is idle (R95). -/
theorem step_of_no_input (hin : s.inputs = []) : step s = .next s := by
  rw [step, nextCycle, hin]

/-- A step is the next port cycle, which is then gone (R40). -/
theorem step_of_input (hin : s.inputs = c :: rest) :
    step s = portCycle c { s with inputs := rest } := by
  rw [step, nextCycle, hin]

/-- A cycle with `rst` = 1 resets the block (R98). -/
theorem portCycle_of_rst (hrst : c.rst = true) : portCycle c s = .next (resetBlock s) := by
  rw [portCycle, if_pos hrst]

variable (hrst : c.rst = false)
include hrst

/-- While a response waits the cycle delivers it or leaves it (R40). -/
theorem portCycle_of_waiting {w : RspWord} (hrsp : s.rsp = some w) :
    portCycle c s = .next (if c.rspReady then deliver s else s) := by
  simp [portCycle, hrst, rspValid, hrsp]

variable (hrsp : s.rsp = none)
include hrsp

/-- A word presented while no response waits is accepted (R40). -/
theorem portCycle_of_word (hvalid : c.cmdValid = true) : portCycle c s = accept c.cmd s := by
  simp [portCycle, hrst, rspValid, hrsp, hvalid]

/-- A cycle with no word presented and no response waiting does nothing (R40, R95). -/
theorem portCycle_of_nothing (hvalid : c.cmdValid = false) : portCycle c s = .next s := by
  simp [portCycle, hrst, rspValid, hrsp, hvalid]

end PortCycles

/-- Every port cycle resets the block, takes a waiting response, leaves the block as it is or
accepts its word (R40, R98). -/
theorem portCycle_cases (c : HostCycle) (s : State) :
    portCycle c s = .next (resetBlock s) ∨ portCycle c s = .next (deliver s) ∨
      portCycle c s = .next s ∨ portCycle c s = accept c.cmd s := by
  unfold portCycle
  split_ifs <;> simp

/-- Settles O1: the flags after reset are those of `State.reset`, which a cycle with `rst` = 1 puts
into the block. -/
theorem resetClearsFlagsAndFaultRecord : Obligations.ResetClearsFlagsAndFaultRecord :=
  ⟨by decide, fun _ _ _ hin hrst => (step_of_input hin).trans (portCycle_of_rst hrst)⟩

/-- Settles O4: the cycle accepts the word, and an accepted word that decodes is its command. -/
theorem stepRunsDecodedCommand : Obligations.StepRunsDecodedCommand :=
  fun _ _ _ _ hin hrst hvalid hrsp hdec =>
    (step_of_input hin).trans
      ((portCycle_of_word hrst (by exact hrsp) hvalid).trans (accept_of_ok hdec _))

/-- Settles O5: the cycle accepts the word, and an accepted word that does not decode is a fault or,
in the fault state, the recorded answer. -/
theorem stepFaultsOnIllegalWord : Obligations.StepFaultsOnIllegalWord := by
  intro s c rest f hin hrst hvalid hrsp hdec
  rw [step_of_input hin, portCycle_of_word hrst (by exact hrsp) hvalid]
  exact ⟨fun he => accept_of_decode_error (by exact he) hdec,
    fun he => (accept_of_err (by exact he) _).trans (congrArg _ (answerRecorded_eq _))⟩

/-- Settles O6: the port cycles that accept no word, by whether a response waits. -/
theorem portCyclesWithoutCommand : Obligations.PortCyclesWithoutCommand := by
  refine ⟨fun s hin => step_of_no_input hin, fun s c rest hin hrst => ?_⟩
  rw [step_of_input hin]
  refine ⟨fun w hrsp hready => ?_, fun w hrsp hready => ?_,
    fun hrsp hvalid => portCycle_of_nothing hrst (by exact hrsp) hvalid⟩
  · rw [portCycle_of_waiting hrst (by exact hrsp), if_pos hready, deliver_of_some (by exact hrsp)]
  · rw [portCycle_of_waiting hrst (by exact hrsp), hready]
    rfl

/-! ### Every step answers a next state -/

/-- Every word in every state answers a next state (R46). -/
theorem exists_accept (w : CmdWord) (s : State) : ∃ t, accept w s = .next t := by
  obtain ⟨t, ht, -⟩ := accept_cases w s
  exact ⟨t, ht⟩

/-- Every step answers a next state (R110). -/
theorem exists_step (s : State) : ∃ t, step s = .next t := by
  cases hin : s.inputs with
  | nil => exact ⟨s, step_of_no_input hin⟩
  | cons c rest =>
    rw [step_of_input hin]
    obtain h | h | h | h := portCycle_cases c { s with inputs := rest }
    · exact ⟨_, h⟩
    · exact ⟨_, h⟩
    · exact ⟨_, h⟩
    · exact h ▸ exists_accept _ _

/-- Settles O35: a run is a chain of steps. -/
theorem everyStepAnswersNextState : Obligations.EveryStepAnswersNextState := by
  refine ⟨exists_step, exists_accept, fun n => ?_⟩
  induction n with
  | zero => exact fun s => ⟨s, rfl⟩
  | succ n ih =>
    intro s
    obtain ⟨t, ht⟩ := exists_step s
    rw [core_run_succ ht]
    exact ih t

/-! ### The invariant -/

/-- Settles O2: at reset no flag is set and no response was given. -/
theorem resetStateMeetsInvariant : Obligations.ResetStateMeetsInvariant where
  faultRecorded := by decide
  codeLegal := by decide
  baseNeedsKey := by decide
  headerNeedsBase := by decide
  waitingOk := by decide
  deliveredOk := by simp [State.reset]

/-- A command that meets no fault keeps the two implications between the valid flags (V9). -/
theorem Effect.keeps_flag_order {i : Instr} {s t : State} (h : Effect i s t)
    (hbase : s.bv = true → s.kv = true) (hheader : s.hv = true → s.bv = true) :
    (t.bv = true → t.kv = true) ∧ (t.hv = true → t.bv = true) := by
  cases h <;> simp_all

/-- The fault record and the valid flags after an accepted word (R22, V9). -/
theorem State.Inv.record_of_accept {s t : State} {w : CmdWord} (hs : s.Inv)
    (h : accept w s = .next t) :
    (t.err = true ↔ t.ecode ≠ 0) ∧ t.ecode.toNat ≤ 7 ∧ (t.bv = true → t.kv = true) ∧
      (t.hv = true → t.bv = true) := by
  obtain ⟨u, hu, hcases⟩ := accept_cases w s
  cases hu.symm.trans h
  obtain ⟨-, rfl⟩ | ⟨-, ⟨c, rfl⟩ | ⟨i, -, heff⟩⟩ := hcases
  · exact ⟨hs.faultRecorded, hs.codeLegal, hs.baseNeedsKey, hs.headerNeedsBase⟩
  · exact ⟨iff_of_true rfl (faultBits_ne_zero c), faultBits_le_seven c, hs.baseNeedsKey,
      hs.headerNeedsBase⟩
  · obtain ⟨d, u, rfl, herr, hcode, -⟩ := heff.eq_respond
    rw [respond_err, respond_ecode, herr, hcode]
    exact ⟨hs.faultRecorded, hs.codeLegal, heff.keeps_flag_order hs.baseNeedsKey hs.headerNeedsBase⟩

/-- An accepted word keeps the invariant: its one response is legal and carries the fault record. -/
theorem State.Inv.accept {s t : State} {w : CmdWord} (hs : s.Inv) (h : accept w s = .next t) :
    t.Inv := by
  obtain ⟨hrec, hcode, hbase, hheader⟩ := hs.record_of_accept h
  obtain ⟨u, x, hu, hrsp, hdel, hlegal, herr, hecode, -⟩ := oneLegalResponsePerWord s w hs
  cases hu.symm.trans h
  refine ⟨hrec, hcode, hbase, hheader, ?_, hdel ▸ hs.deliveredOk⟩
  simp only [waitingResponseOk, hrsp, hlegal, herr, hecode, beq_self_eq_true, Bool.and_self]

/-- A delivery keeps the invariant: what waits is legal. -/
theorem State.Inv.deliver {s : State} (hs : s.Inv) : (deliver s).Inv := by
  cases hrsp : s.rsp with
  | none => rwa [deliver_of_none hrsp]
  | some w =>
    have hwait := hs.waitingOk
    simp only [waitingResponseOk, hrsp, Bool.and_eq_true] at hwait
    obtain ⟨⟨hlegal, -⟩, -⟩ := hwait
    rw [deliver_of_some hrsp]
    refine { hs with waitingOk := rfl, deliveredOk := fun x hx => ?_ }
    obtain hx | hx := List.mem_append.1 hx
    · exact hs.deliveredOk x hx
    · rwa [List.mem_singleton.1 hx]

/-- A reset leads into the invariant from every state whose deliveries were legal. -/
theorem State.Inv.resetBlock {s : State} (hs : s.Inv) : (resetBlock s).Inv :=
  { resetStateMeetsInvariant with deliveredOk := hs.deliveredOk }

/-- Settles O51: the invariant does not look at the port cycles to come, and each thing a port cycle
can do keeps it. -/
theorem stepKeepsInvariant : Obligations.StepKeepsInvariant := by
  intro s t hs h
  cases hin : s.inputs with
  | nil =>
    cases (step_of_no_input hin).symm.trans h
    exact hs
  | cons c rest =>
    rw [step_of_input hin] at h
    have hs' : State.Inv { s with inputs := rest } := { hs with }
    obtain hc | hc | hc | hc := portCycle_cases c { s with inputs := rest }
    · cases hc.symm.trans h
      exact hs'.resetBlock
    · cases hc.symm.trans h
      exact hs'.deliver
    · cases hc.symm.trans h
      exact hs'
    · exact hs'.accept (hc.symm.trans h)

end Sys2Proof.Machine

/-! ## Two runs in lockstep

Which of its ways an accepted word goes depends on the fault record and the valid flags only. So the
port cycles to come play no part in what a word does, and a host that never stalls runs its words
one after the other (R36, R40); and what a register holds while its flag is 0 plays no part in any
response (R26, U1). -/

namespace Sys2Proof.Machine

section LiveWords

variable {s : State} (he : s.err = false)
include he

/-- The effect of a command is what the command does. -/
theorem Effect.exec_eq {i : Instr} {t : State} (h : Effect i s t) : exec i s = .next t := by
  cases h <;> rw [respond_eq_answered]
  case nop => exact exec_nop he
  case seed => exact exec_seed he
  case adv imm hkv => exact exec_adv he hkv imm
  case ksb hkv => exact exec_ksb he hkv
  case enc imm hkv => exact exec_enc he hkv imm
  case dec imm hkv => exact exec_dec he hkv imm
  case save hkv => exact exec_save he hkv
  case rest hbv => exact exec_rest he hbv
  case ldr idx imm i hi => exact exec_ldr he hi imm
  case ldc idx imm i hi => exact exec_ldc he hi imm
  case hdr hbv hrv hcv => exact exec_hdr he hbv hrv hcv
  case rdh idx i hi hhv => exact exec_rdh he hi hhv
  case rdk idx i hi hkv => exact exec_rdk he hi hkv
  case wrk idx imm i hi hkv => exact exec_wrk he hi hkv imm
  case rds idx i hi => exact exec_rds he hi

variable {w : CmdWord}

/-- A word with a fault raises it (R45, R90). -/
theorem accept_of_wordFault {c : FaultCode} (h : wordFault w s = some c) :
    accept w s = .next (raiseFault c s) := by
  have hrep := accept_reports he w
  rwa [h, Reports, ← raiseFault_eq_faultedAs] at hrep

/-- A word with no fault spells a command and has its effect (R45). -/
theorem exists_effect_of_no_fault (h : wordFault w s = none) :
    ∃ i t, decode w = .ok i ∧ Effect i s t := by
  have hrep := accept_reports he w
  rw [h] at hrep
  obtain ⟨u, hu, hlive, -⟩ := hrep
  obtain ⟨t, ht, ⟨hse, -⟩ | ⟨-, ⟨c, rfl⟩ | ⟨i, hi, heff⟩⟩⟩ := accept_cases w s
  · simp [he] at hse
  · cases hu.symm.trans ht
    simp at hlive
  · exact ⟨i, t, hi, heff⟩

end LiveWords

/-- The states have the same fault record and the same valid flags. -/
structure SameFlags (s t : State) : Prop where
  err : s.err = t.err
  kv : s.kv = t.kv
  bv : s.bv = t.bv
  hv : s.hv = t.hv
  rv : s.rv = t.rv
  cv : s.cv = t.cv

/-- The fault a word raises outside the fault state depends on the valid flags only. -/
theorem SameFlags.wordFault_eq {s t : State} (h : SameFlags s t) (w : CmdWord) :
    wordFault w s = wordFault w t := by
  rw [wordFault, wordFault]
  cases decode w with
  | error c => rfl
  | ok i => cases i <;> simp only [requirementFault, h.kv, h.bv, h.hv, h.rv, h.cv]

/-- A relation between states with the same flags that each thing a word can do keeps: the recorded
answer, a fault, and the effect of a command. -/
structure Lockstep (R : State → State → Prop) : Prop where
  flags {s t : State} : R s t → SameFlags s t
  answerRecorded {s t : State} : R s t → R (answerRecorded s) (answerRecorded t)
  raiseFault {s t : State} (c : FaultCode) : R s t → R (raiseFault c s) (raiseFault c t)
  effect {i : Instr} {s t s' : State} : R s t → Effect i s s' → ∃ t', Effect i t t' ∧ R s' t'

/-- Such a relation is kept by every accepted word. -/
theorem Lockstep.accept {R : State → State → Prop} (hR : Lockstep R) {s t : State} (h : R s t)
    (w : CmdWord) : ∃ s' t', accept w s = .next s' ∧ accept w t = .next t' ∧ R s' t' := by
  have hflags := hR.flags h
  cases he : s.err with
  | true =>
    exact ⟨_, _, accept_of_err he w, accept_of_err (hflags.err ▸ he) w, hR.answerRecorded h⟩
  | false =>
    have het : t.err = false := hflags.err ▸ he
    cases hf : wordFault w s with
    | some c =>
      exact ⟨_, _, accept_of_wordFault he hf,
        accept_of_wordFault het (hflags.wordFault_eq w ▸ hf), hR.raiseFault c h⟩
    | none =>
      obtain ⟨i, s', hi, heff⟩ := exists_effect_of_no_fault he hf
      obtain ⟨t', heff', h'⟩ := hR.effect h heff
      exact ⟨_, _, (accept_of_ok hi s).trans (heff.exec_eq he),
        (accept_of_ok hi t).trans (heff'.exec_eq het), h'⟩

/-! ### The port cycles to come play no part -/

/-- The effect of a command is the same whatever port cycles are to come. -/
theorem Effect.with_inputs {i : Instr} {s t : State} (h : Effect i s t) (l : List HostCycle) :
    Effect i { s with inputs := l } { t with inputs := l } := by
  cases h <;> constructor <;> assumption

/-- A word does the same whatever port cycles are to come. -/
theorem lockstep_with_inputs (l : List HostCycle) :
    Lockstep fun s t => t = { s with inputs := l } where
  flags := by rintro s _ rfl; exact ⟨rfl, rfl, rfl, rfl, rfl, rfl⟩
  answerRecorded := by rintro s _ rfl; rfl
  raiseFault := by rintro s _ c rfl; rfl
  effect := by rintro i s _ s' rfl heff; exact ⟨_, heff.with_inputs l, rfl⟩

/-- A word accepted with other port cycles to come (R40). -/
theorem accept_with_inputs {w : CmdWord} {s t : State} (h : accept w s = .next t)
    (l : List HostCycle) :
    accept w { s with inputs := l } = .next { t with inputs := l } := by
  obtain ⟨t', u, ht', hu, rfl⟩ := (lockstep_with_inputs l).accept (s := s) rfl w
  cases h.symm.trans ht'
  exact hu

/-- An accepted word leaves a response waiting (R40). -/
theorem exists_rsp_of_accept {w : CmdWord} {s t : State} (h : accept w s = .next t) :
    ∃ x, t.rsp = some x := by
  obtain ⟨u, hu, hcases⟩ := accept_cases w s
  cases hu.symm.trans h
  obtain ⟨-, rfl⟩ | ⟨-, ⟨c, rfl⟩ | ⟨i, -, heff⟩⟩ := hcases
  · exact ⟨_, rfl⟩
  · exact ⟨_, rfl⟩
  · obtain ⟨d, u, rfl, -⟩ := heff.eq_respond
    exact ⟨_, rfl⟩

/-- A delivery does not look at the port cycles to come. -/
theorem deliver_with_inputs (s : State) (l : List HostCycle) :
    deliver { s with inputs := l } = { deliver s with inputs := l } := by
  cases hrsp : s.rsp <;> simp [deliver, hrsp]

/-- The two port cycles of a word: it is accepted, then its response is taken (R40). -/
theorem core_run_handshake_cons {w : CmdWord} {ws : List CmdWord} {rest : List HostCycle}
    {s t : State} (n : Nat) (hrsp : s.rsp = none)
    (hin : s.inputs = handshake (w :: ws) ++ rest) (h : accept w s = .next t) :
    Sys2Proof.core.run (n + 2) s =
      Sys2Proof.core.run n { deliver t with inputs := handshake ws ++ rest } := by
  obtain ⟨x, hx⟩ := exists_rsp_of_accept h
  have hpresent : step s = .next { t with inputs := taking :: (handshake ws ++ rest) } :=
    (step_of_input (c := presenting w) hin).trans <|
      (portCycle_of_word rfl (by exact hrsp) rfl).trans (accept_with_inputs h _)
  have htake : step { t with inputs := taking :: (handshake ws ++ rest) } =
      .next { deliver t with inputs := handshake ws ++ rest } :=
    (step_of_input (c := taking) rfl).trans <|
      (portCycle_of_waiting rfl (by exact hx)).trans (congrArg _ (deliver_with_inputs t _))
  rw [core_run_succ hpresent, core_run_succ htake]

/-- Settles O53, by induction on the words: two cycles run one word. -/
theorem portRunIsCommandRun : Obligations.PortRunIsCommandRun := by
  intro ws
  induction ws with
  | nil => rintro s rest - hin; subst hin; rfl
  | cons w ws ih =>
    intro s rest hrsp hin
    obtain ⟨t, ht⟩ := exists_accept w s
    have hrest : runWords (w :: ws) { s with inputs := rest } =
        runWords ws { deliver t with inputs := rest } := by
      rw [runWords_cons (accept_with_inputs ht rest), deliver_with_inputs]
    exact (core_run_handshake_cons _ hrsp hin ht).trans
      ((ih { deliver t with inputs := handshake ws ++ rest } rest (deliver_rsp t) rfl).trans
        hrest.symm)

end Sys2Proof.Machine

/-! ### Registers that hold no value play no part -/

namespace Sys2Proof.Machine

/-- Writing one byte of the check value changes that byte and no other (R77). -/
theorem slice_writeCheckByte (chk : BitVec 16) (i j : Fin 2) (v : Byte) :
    slice (8 * j.val) 8 (writeCheckByte chk i v) =
      if j = i then v else slice (8 * j.val) 8 chk := by
  have hchk := chk.isLt
  have hv := v.isLt
  apply BitVec.eq_of_toNat_eq
  fin_cases i <;> fin_cases j <;>
    simp [writeCheckByte_low, writeCheckByte_high] <;> omega

/-- The check value is given by its two bytes (R30). -/
theorem check_eq_of_bytes {v w : BitVec 16} (hlow : slice 0 8 v = slice 0 8 w)
    (hhigh : slice 8 8 v = slice 8 8 w) : v = w := by
  rw [← writeCheckByte_both v v, ← writeCheckByte_both v w, hlow, hhigh]

namespace Agree

variable {s t : State} (h : Agree s t)
include h

/-- States that cannot be told apart have the same flags. -/
theorem sameFlags : SameFlags s t := ⟨h.err, h.kv, h.bv, h.hv, h.rv, h.cv⟩

/-- An answer keeps the agreement. -/
theorem respond (d : Byte) : Agree (respond d s) (respond d t) := { h with rsp := rfl }

/-- A fault keeps the agreement. -/
theorem raiseFault (c : FaultCode) : Agree (raiseFault c s) (raiseFault c t) :=
  { h with err := rfl, ecode := rfl, rsp := rfl }

/-- The recorded answer keeps the agreement. -/
theorem answerRecorded : Agree (answerRecorded s) (answerRecorded t) :=
  { h with rsp := by rw [answerRecorded_rsp, answerRecorded_rsp, h.ecode] }

/-- A delivery keeps the agreement. -/
theorem deliver : Agree (deliver s) (deliver t) := by
  cases hrsp : t.rsp with
  | none => rwa [deliver_of_none (h.rsp.trans hrsp), deliver_of_none hrsp]
  | some w =>
    rw [deliver_of_some (h.rsp.trans hrsp), deliver_of_some hrsp]
    exact { h with rsp := rfl, delivered := congrArg (· ++ [w]) h.delivered }

/-- After a reset nothing of the registers is left. -/
theorem resetBlock : Agree (resetBlock s) (resetBlock t) := by
  refine ⟨rfl, rfl, rfl, rfl, rfl, rfl, rfl, rfl, h.inputs, h.delivered, ?_, ?_, ?_, ?_, ?_, ?_⟩ <;>
    simp

/-- The same value in K on both sides keeps the agreement. -/
theorem set_k (k : Keys) : Agree { s with k := k } { t with k := k } := { h with k := fun _ => rfl }

/-- The same value loaded into K on both sides keeps the agreement. -/
theorem load_k {k l : Keys} (hk : k = l) :
    Agree { s with k := k, kv := true } { t with k := l, kv := true } :=
  { h with k := fun _ => hk, kv := rfl }

/-- The same value saved in B on both sides keeps the agreement. -/
theorem load_b {b c : Keys} (hb : b = c) :
    Agree { s with b := b, bv := true } { t with b := c, bv := true } :=
  { h with b := fun _ => hb, bv := rfl }

/-- The status bytes show the flags only (R21). -/
theorem readStatus_eq (i : Fin 3) : readStatus s i = readStatus t i := by
  unfold readStatus statusByte
  rw [h.kv, h.bv, h.hv, h.rv, h.cv]

/-- With every random byte loaded R is the same on both sides (R21). -/
theorem r_eq (hrv : s.rv = 0xFFF) : s.r = t.r := by
  have hfull : ∀ i : Fin 12, (0xFFF : BitVec 12).getLsbD i.val = true := by decide
  exact Vector.ext fun i hi => h.r ⟨i, hi⟩ (hrv ▸ hfull ⟨i, hi⟩)

/-- With both halves loaded the check value is the same on both sides (R18). -/
theorem chk_eq (hcv : s.cv = 0b11) : s.chk = t.chk :=
  check_eq_of_bytes (h.chkLow (hcv ▸ rfl)) (h.chkHigh (hcv ▸ rfl))

/-- LDR keeps the agreement: the byte is the same, the others are as they were (R76). -/
theorem set_r (i : Fin 12) (v : Byte) :
    Agree { s with r := s.r.set i v, rv := markRandom s.rv i }
      { t with r := t.r.set i v, rv := markRandom t.rv i } := by
  refine { h with rv := congrArg (markRandom · i) h.rv, r := fun j hj => ?_ }
  rw [markRandom_getLsbD, Bool.or_eq_true, decide_eq_true_iff, Fin.ext_iff] at hj
  simp only [Fin.getElem_fin, Vector.getElem_set]
  split
  case isTrue => rfl
  case isFalse hne => exact h.r j (hj.resolve_right hne)

/-- LDC keeps the agreement: the byte is the same, the other is as it was (R77). -/
theorem set_chk (i : Fin 2) (v : Byte) :
    Agree { s with chk := writeCheckByte s.chk i v, cv := markCheck s.cv i }
      { t with chk := writeCheckByte t.chk i v, cv := markCheck t.cv i } := by
  have hbyte (j : Fin 2)
      (hold : s.cv.getLsbD j.val = true → slice (8 * j.val) 8 s.chk = slice (8 * j.val) 8 t.chk)
      (hj : (markCheck s.cv i).getLsbD j.val = true) :
      slice (8 * j.val) 8 (writeCheckByte s.chk i v) =
        slice (8 * j.val) 8 (writeCheckByte t.chk i v) := by
    rw [markCheck_getLsbD, Bool.or_eq_true, decide_eq_true_iff, eq_comm (a := i)] at hj
    rw [slice_writeCheckByte, slice_writeCheckByte]
    split
    case isTrue => rfl
    case isFalse hne => exact hold (hj.resolve_right hne)
  exact { h with
    cv := congrArg (markCheck · i) h.cv
    chkLow := hbyte 0 h.chkLow
    chkHigh := hbyte 1 h.chkHigh }

/-- HDR keeps the agreement: K and H are the same, no header input holds a value (R78). -/
theorem set_header {p q : Keys × Vector Byte 12} (hp : p = q) :
    Agree { s with k := p.1, h := p.2, kv := true, hv := true, rv := 0, cv := 0 }
      { t with k := q.1, h := q.2, kv := true, hv := true, rv := 0, cv := 0 } :=
  { h with
    k := fun _ => congrArg Prod.fst hp
    h := fun _ => congrArg Prod.snd hp
    kv := rfl
    hv := rfl
    rv := rfl
    cv := rfl
    r := by simp
    chkLow := by simp
    chkHigh := by simp }

/-- The effect of a command is the same on both sides: it reads no register that holds no value. -/
theorem effect {i : Instr} {s' : State} (heff : Effect i s s') :
    ∃ t', Effect i t t' ∧ Agree s' t' := by
  cases heff with
  | nop => exact ⟨_, .nop t, h.respond 0⟩
  | seed => exact ⟨_, .seed t, (h.load_k rfl).respond 0⟩
  | adv imm _ hkv =>
    rw [h.k hkv]
    exact ⟨_, .adv imm t (h.kv ▸ hkv), (h.set_k _).respond 0⟩
  | ksb _ hkv =>
    rw [h.k hkv]
    exact ⟨_, .ksb t (h.kv ▸ hkv), h.respond _⟩
  | enc imm _ hkv =>
    rw [h.k hkv]
    exact ⟨_, .enc imm t (h.kv ▸ hkv), (h.set_k _).respond _⟩
  | dec imm _ hkv =>
    rw [h.k hkv]
    exact ⟨_, .dec imm t (h.kv ▸ hkv), (h.set_k _).respond _⟩
  | save _ hkv =>
    exact ⟨_, .save t (h.kv ▸ hkv), (h.load_b (h.k hkv)).respond 0⟩
  | rest _ hbv =>
    exact ⟨_, .rest t (h.bv ▸ hbv), (h.load_k (h.b hbv)).respond 0⟩
  | ldr idx imm _ i hi => exact ⟨_, .ldr idx imm t i hi, (h.set_r i imm).respond 0⟩
  | ldc idx imm _ i hi => exact ⟨_, .ldc idx imm t i hi, (h.set_chk i imm).respond 0⟩
  | hdr _ hbv hrv hcv =>
    have hbuild : buildHeader s.b s.r s.chk = buildHeader t.b t.r t.chk := by
      rw [h.b hbv, h.r_eq hrv, h.chk_eq hcv]
    exact ⟨_, .hdr t (h.bv ▸ hbv) (h.rv ▸ hrv) (h.cv ▸ hcv), (h.set_header hbuild).respond 0⟩
  | rdh idx _ i hi hhv =>
    rw [h.h hhv]
    exact ⟨_, .rdh idx t i hi (h.hv ▸ hhv), h.respond _⟩
  | rdk idx _ i hi hkv =>
    rw [h.k hkv]
    exact ⟨_, .rdk idx t i hi (h.kv ▸ hkv), h.respond _⟩
  | wrk idx imm _ i hi hkv =>
    rw [h.k hkv]
    exact ⟨_, .wrk idx imm t i hi (h.kv ▸ hkv), (h.set_k _).respond 0⟩
  | rds idx _ i hi =>
    rw [h.readStatus_eq]
    exact ⟨_, .rds idx t i hi, h.respond _⟩

end Agree

/-- No accepted word can tell the states apart. -/
theorem lockstep_agree : Lockstep Agree where
  flags h := h.sameFlags
  answerRecorded h := h.answerRecorded
  raiseFault c h := h.raiseFault c
  effect h heff := h.effect heff

/-- No port cycle can tell the states apart. -/
theorem Agree.portCycle {s t : State} (h : Agree s t) (c : HostCycle) :
    ∃ s' t', portCycle c s = .next s' ∧ portCycle c t = .next t' ∧ Agree s' t' := by
  cases hrst : c.rst with
  | true => exact ⟨_, _, portCycle_of_rst hrst, portCycle_of_rst hrst, h.resetBlock⟩
  | false =>
    cases hrsp : s.rsp with
    | some w =>
      refine ⟨_, _, portCycle_of_waiting hrst hrsp, portCycle_of_waiting hrst (h.rsp ▸ hrsp), ?_⟩
      split
      · exact h.deliver
      · exact h
    | none =>
      have hrspt : t.rsp = none := h.rsp ▸ hrsp
      cases hvalid : c.cmdValid with
      | true =>
        rw [portCycle_of_word hrst hrsp hvalid, portCycle_of_word hrst hrspt hvalid]
        exact lockstep_agree.accept h c.cmd
      | false =>
        exact ⟨_, _, portCycle_of_nothing hrst hrsp hvalid, portCycle_of_nothing hrst hrspt hvalid,
          h⟩

/-- No step can tell the states apart. -/
theorem Agree.step {s t : State} (h : Agree s t) :
    ∃ s' t', step s = .next s' ∧ step t = .next t' ∧ Agree s' t' := by
  cases hin : s.inputs with
  | nil => exact ⟨_, _, step_of_no_input hin, step_of_no_input (h.inputs ▸ hin), h⟩
  | cons c rest =>
    rw [step_of_input hin, step_of_input (h.inputs ▸ hin)]
    have hrest : Agree { s with inputs := rest } { t with inputs := rest } :=
      { h with inputs := rfl }
    exact hrest.portCycle c

/-- Settles O52: the agreement is kept by every step, so by every run. -/
theorem invalidRegistersAreUnobservable : Obligations.InvalidRegistersAreUnobservable := by
  intro n
  induction n with
  | zero => exact fun s t h => ⟨s, t, rfl, rfl, h⟩
  | succ n ih =>
    intro s t h
    obtain ⟨s', t', hs, ht, h'⟩ := h.step
    rw [core_run_succ hs, core_run_succ ht]
    exact ih s' t' h'

end Sys2Proof.Machine

/-! ## The pure functions

The CRC table and that its entries differ (R27, R28), the keystream byte as a function of 14 bits of
K2 (R52, R59), encrypting against decrypting (R60, R61), and the header (R69 to R72). -/

namespace Sys2Proof.Machine

/-! ### The table -/

/-- The printed table is the generated one (R28). -/
theorem T_eq_crcEntry : ∀ n : Byte, T n = crcEntry n :=
  byte_forall (by decide +kernel)

/-- Settles O36: the table entry by entry; the check value and the registers by evaluation. -/
theorem crcTableIsGenerated : Obligations.CrcTableIsGenerated :=
  ⟨T_eq_crcEntry, by decide +kernel, initState_s3cret⟩

/-- One round of the CRC step (R28). -/
def crcRound (c : Word) : Word := if c.getLsbD 0 then (c >>> 1) ^^^ crcPolynomial else c >>> 1

/-- The rounds of the model are those. -/
theorem crcRounds_succ (n : Nat) (c : Word) : crcRounds (n + 1) c = crcRounds n (crcRound c) := rfl

/-- Bit 31 of a round is the bit shifted out: the polynomial has bit 31 set. -/
theorem crcRound_getLsbD_31 (c : Word) : (crcRound c).getLsbD 31 = c.getLsbD 0 := by
  rw [crcRound]
  split
  case isTrue h => simp [crcPolynomial, h]
  case isFalse h => simpa using h

/-- A round loses nothing: bit 31 tells the bit shifted out and with it whether the polynomial was
added. -/
theorem crcRound_injective : Function.Injective crcRound := by
  intro c d h
  have hlow : c.getLsbD 0 = d.getLsbD 0 := by
    rw [← crcRound_getLsbD_31, ← crcRound_getLsbD_31, h]
  have hshift : c >>> 1 = d >>> 1 := by
    rw [crcRound, crcRound, hlow] at h
    split at h
    · exact (BitVec.xor_left_inj _).1 h
    · exact h
  apply BitVec.eq_of_getLsbD_eq
  intro i hi
  cases i with
  | zero => exact hlow
  | succ i => simpa [Nat.add_comm] using congrArg (BitVec.getLsbD · i) hshift

/-- No number of rounds loses anything. -/
theorem crcRounds_injective (n : Nat) : Function.Injective (crcRounds n) := by
  induction n with
  | zero => exact Function.injective_id
  | succ n ih =>
    rw [show crcRounds (n + 1) = crcRounds n ∘ crcRound from funext (crcRounds_succ n)]
    exact ih.comp crcRound_injective

/-- No two entries of the table are equal. -/
theorem T_injective : Function.Injective T := by
  intro a b h
  rw [T_eq_crcEntry, T_eq_crcEntry] at h
  have hwide : a.setWidth 32 = b.setWidth 32 := crcRounds_injective 8 h
  simpa using congrArg (BitVec.setWidth 8) hwide

/-! ### The keystream byte -/

/-- A number times its neighbour in bit 0 is the product of the even and the odd one. -/
theorem mul_xor_one (n : Nat) : n * (n ^^^ 1) = 2 * (n / 2) * (2 * (n / 2) + 1) := by
  obtain hn | hn := n.even_or_odd
  · rw [Nat.xor_one_of_even hn, Nat.two_mul_div_two_of_even hn]
  · obtain ⟨m, rfl⟩ := hn
    rw [Nat.xor_one_of_odd ⟨m, rfl⟩, show (2 * m + 1) / 2 = m by omega, Nat.add_sub_cancel,
      mul_comm]

/-- With bit 1 set, what stands above bit 0 is twice what stands above bit 1, and 1. -/
theorem or_two_div_two (n : Nat) : (n ||| 2) / 2 = 2 * (n / 4) + 1 := by
  have hlow : (n / 2 ||| 1) % 2 = 1 := by simp
  have hhigh : (n / 2 ||| 1) / 2 = n / 4 := by
    rw [Nat.or_div_two, show 1 / 2 = 0 from rfl, Nat.or_zero, Nat.div_div_eq_div_mul]
  rw [Nat.or_div_two, show 2 / 2 = 1 from rfl]
  omega

/-- The product of R52 for the part `m` of K2 above bit 1. -/
def keystreamProduct (m : Nat) : Nat := (4 * m + 2) * (4 * m + 3)

/-- The product in the unmasked 32-bit reading (R59). -/
theorem keystreamProduct_unmasked (x : Word) :
    (x ||| 2).toNat * ((x ||| 2) ^^^ 1).toNat = keystreamProduct (x.toNat / 4) := by
  rw [BitVec.toNat_xor, BitVec.toNat_or, show (1 : Word).toNat = 1 from rfl,
    show (2 : Word).toNat = 2 from rfl, mul_xor_one, or_two_div_two, keystreamProduct]
  ring

/-- The product in the 16-bit reading, `m` being bits 15:2 of K2 (R52). -/
theorem keystreamProduct_masked (x : Word) :
    (slice 0 16 (x ||| 2)).toNat * (slice 0 16 (x ||| 2) ^^^ 1).toNat =
      keystreamProduct (slice 2 14 x).toNat := by
  have hhalf : (slice 0 16 (x ||| 2)).toNat / 2 = 2 * (slice 2 14 x).toNat + 1 := by
    have := or_two_div_two x.toNat
    rw [slice_toNat, slice_toNat, BitVec.toNat_or, show (2 : Word).toNat = 2 from rfl]
    omega
  rw [BitVec.toNat_xor, show (1 : BitVec 16).toNat = 1 from rfl, mul_xor_one, hhalf,
    keystreamProduct]
  ring

/-- Bits 15:8 of the product depend on bits 15:2 of K2 only (R59). -/
theorem keystreamProduct_byte_mod (q : Nat) :
    keystreamProduct q / 256 % 256 = keystreamProduct (q % 2 ^ 14) / 256 % 256 := by
  have hq : keystreamProduct q % 65536 = keystreamProduct (q % 2 ^ 14) % 65536 := by
    have hmul : 4 * q ≡ 4 * (q % 2 ^ 14) [MOD 65536] := by
      unfold Nat.ModEq
      omega
    exact (hmul.add_right 2).mul (hmul.add_right 3)
  omega

/-- The keystream byte over the integers (R52). -/
theorem keystreamByte_toNat (k : Keys) :
    (keystreamByte k).toNat = keystreamProduct (slice 2 14 k.k2).toNat / 256 % 256 := by
  rw [keystreamByte, slice_byte_toNat, BitVec.toNat_mul, BitVec.toNat_setWidth,
    BitVec.toNat_setWidth, ← keystreamProduct_masked]
  have h1 := (slice 0 16 (k.k2 ||| 2)).isLt
  have h2 := (slice 0 16 (k.k2 ||| 2) ^^^ 1).isLt
  rw [Nat.mod_eq_of_lt (h1.trans (by decide)), Nat.mod_eq_of_lt (h2.trans (by decide))]
  omega

/-- The keystream byte in the unmasked 32-bit reading (R59). -/
theorem keystreamByte_toNat_unmasked (k : Keys) :
    (keystreamByte k).toNat = (k.k2 ||| 2).toNat * ((k.k2 ||| 2) ^^^ 1).toNat / 256 % 256 := by
  rw [keystreamByte_toNat, keystreamProduct_unmasked, keystreamProduct_byte_mod (k.k2.toNat / 4),
    slice_toNat, show 2 ^ 2 = 4 from rfl]

/-- With bits 15:8 of K2 at `j` and the other low bits 0 the keystream byte is `5 * j`. -/
theorem keystreamProduct_mul_64 (j : Nat) :
    keystreamProduct (64 * j) / 256 % 256 = 5 * j % 256 := by
  have : keystreamProduct (64 * j) = 256 * (256 * (j * j) + 5 * j) + 6 := by
    rw [keystreamProduct]
    ring
  omega

/-- Every byte occurs, since `5 * 205 = 1` modulo 256 (R59). -/
theorem exists_keystreamByte_eq (b : Byte) : ∃ k : Keys, keystreamByte k = b := by
  refine ⟨⟨0, 0, BitVec.ofNat 32 (256 * (205 * b.toNat % 256))⟩, BitVec.eq_of_toNat_eq ?_⟩
  have hslice : (slice 2 14 (BitVec.ofNat 32 (256 * (205 * b.toNat % 256)))).toNat =
      64 * (205 * b.toNat % 256) := by
    rw [slice_toNat, BitVec.toNat_ofNat]
    omega
  have hb := b.isLt
  rw [keystreamByte_toNat, hslice, keystreamProduct_mul_64]
  omega

/-- What the low 16 bits of K2 say of the product and of the keystream byte (R59). -/
theorem keystream_of_low {k : Keys} {m : Nat} {b : Byte} (hlow : (slice 0 16 k.k2).toNat / 4 = m)
    (hb : keystreamProduct m / 256 % 256 = b.toNat) :
    (slice 0 16 (k.k2 ||| 2)).toNat * (slice 0 16 (k.k2 ||| 2) ^^^ 1).toNat = keystreamProduct m ∧
      keystreamByte k = b := by
  have hm : (slice 2 14 k.k2).toNat = m := by
    rw [slice_toNat] at hlow ⊢
    omega
  exact ⟨hm ▸ keystreamProduct_masked k.k2,
    BitVec.eq_of_toNat_eq ((keystreamByte_toNat k).trans (hm ▸ hb))⟩

/-- Settles O38: each reading takes bits 15:8 of one product. -/
theorem keystreamByteReadingsAgree : Obligations.KeystreamByteReadingsAgree := by
  refine ⟨fun k => ?_, fun k l h => ?_, exists_keystreamByte_eq, fun k => ⟨fun h => ?_, fun h => ?_,
    fun h => ?_, fun h => ?_⟩⟩
  · have hbyte := keystreamByte_toNat_unmasked k
    exact ⟨hbyte, by omega, by omega⟩
  · exact BitVec.eq_of_toNat_eq (by rw [keystreamByte_toNat, keystreamByte_toNat, h])
  · exact keystream_of_low (m := 0) (by omega) rfl
  · have := (slice 0 16 k.k2).isLt
    exact keystream_of_low (m := 0x3FFF) (by omega) rfl
  · exact keystream_of_low (m := 0x40) (by rw [h]; rfl) rfl
  · exact keystream_of_low (m := 0x2000) (by rw [h]; rfl) rfl

/-! ### Encrypting against decrypting -/

/-- Adding the keystream byte twice gives the byte back (R53, R54). -/
theorem decryptByte_encryptByte (k : Keys) (p : Byte) :
    decryptByte k (encryptByte k p).2 = ((encryptByte k p).1, p) := by
  simp [decryptByte, encryptByte]

/-- Decrypting a ciphertext from the same state gives the plaintext and the same end state (R60). -/
theorem decryptBytes_encryptBytes (k : Keys) (ps : List Byte) :
    decryptBytes k (encryptBytes k ps).2 = ((encryptBytes k ps).1, ps) := by
  induction ps generalizing k with
  | nil => rfl
  | cons p ps ih => simp only [encryptBytes, decryptBytes, decryptByte_encryptByte, ih]

/-- Settles O39: for a byte and, by induction, for a string. -/
theorem decryptInvertsEncrypt : Obligations.DecryptInvertsEncrypt := by
  refine ⟨fun k k' p c h => ?_, decryptBytes_encryptBytes⟩
  have hdec := decryptByte_encryptByte k p
  rwa [h] at hdec

/-- Different bytes advance to different states: the byte goes into K0 through the table (R51). -/
theorem advance_injective (k : Keys) : Function.Injective (advance k) := by
  intro a b h
  have hk0 := congrArg Keys.k0 h
  rw [advance_k0, advance_k0, BitVec.xor_right_inj] at hk0
  exact (BitVec.xor_right_inj _).1 (T_injective hk0)

/-- Settles O40: the two bytes that drive the updates are equal exactly when the keystream byte is
zero. -/
theorem encryptAndDecryptCoincideOnlyAtZero :
    Obligations.EncryptAndDecryptCoincideOnlyAtZero := by
  refine fun k x => ⟨rfl, rfl, rfl, rfl, ?_⟩
  rw [encryptByte, decryptByte, (advance_injective k).eq_iff, eq_comm (b := 0x00)]
  simpa using BitVec.xor_right_inj (x := 0) (y := keystreamByte k) x

/-! ### The header -/

/-- The first bytes of a ciphertext are the ciphertext of the first bytes. -/
theorem take_encryptBytes (k : Keys) (ps : List Byte) (n : Nat) :
    (encryptBytes k ps).2.take n = (encryptBytes k (ps.take n)).2 := by
  induction ps generalizing k n with
  | nil => simp [encryptBytes]
  | cons p ps ih => cases n <;> simp [encryptBytes, ih]

/-- The step-4 buffer depends on the first ten random bytes only (R72). -/
theorem headerBuffer_congr {base : Keys} {r r' : Vector Byte 12} (chk : BitVec 16)
    (h : ∀ i : Fin 12, i.val < 10 → r'[i] = r[i]) :
    headerBuffer base r' chk = headerBuffer base r chk := by
  have htake : r'.toList.take 10 = r.toList.take 10 := by
    refine List.ext_getElem (by simp) fun i hi _ => ?_
    have hi10 : i < 10 := by simpa using hi
    simpa using h ⟨i, by omega⟩ hi10
  rw [← Vector.toList_inj, headerBuffer_toList, headerBuffer_toList, take_encryptBytes,
    take_encryptBytes, htake]

/-- Settles O41: both components of `buildHeader` are those of the second pass over the step-4
buffer. -/
theorem headerIsTwoPass : Obligations.HeaderIsTwoPass := by
  intro base r chk
  have hbuf := headerBuffer_toList base r chk
  refine ⟨?_, ?_, fun r' h => ?_⟩
  · rw [← hbuf]; exact encryptVector_toList _ _
  · rw [← hbuf]; rfl
  · rw [buildHeader, headerBuffer_congr chk h, buildHeader]

/-- Decrypting a header from the base key gives the step-4 buffer and the end state of pass 2
(R70). -/
theorem decryptBytes_buildHeader (base : Keys) (r : Vector Byte 12) (chk : BitVec 16) :
    decryptBytes base (buildHeader base r chk).2.toList =
      ((buildHeader base r chk).1, (headerBuffer base r chk).toList) := by
  rw [buildHeader, encryptVector_toList, decryptBytes_encryptBytes]

/-- Settles O42: the header is a ciphertext of the step-4 buffer, which has the check value in its
last two bytes. -/
theorem headerDecryptsToCheckValue : Obligations.HeaderDecryptsToCheckValue := by
  intro base r chk
  have hchk := chk.isLt
  refine ⟨decryptBytes_buildHeader base r chk, ?_, ?_⟩
  · rw [headerBuffer, checkBuffer, Vector.getElem_set_ne _ _ (by decide), Vector.getElem_set_self,
      slice_byte_toNat, Nat.pow_zero, Nat.div_one]
  · rw [headerBuffer, checkBuffer, Vector.getElem_set_self, slice_byte_toNat]
    omega

/-- The first byte of a ciphertext is the first byte under the first keystream byte (R53). -/
theorem encryptVector_getElem_zero (k : Keys) (v : Vector Byte 12) :
    (encryptVector k v)[0] = v[0] ^^^ keystreamByte k := by
  have hhead (ps : List Byte) (hlen : 0 < ps.length) :
      (encryptBytes k ps).2[0]'(by rwa [encryptBytes_length]) = ps[0] ^^^ keystreamByte k := by
    cases ps with
    | nil => simp at hlen
    | cons p ps => rfl
  simpa [encryptVector] using hhead v.toList (by simp)

/-- Settles O43: both passes start from the base key, so they add the same keystream byte to the
first byte. -/
theorem headerFirstByteIsFirstRandomByte : Obligations.HeaderFirstByteIsFirstRandomByte := by
  intro base r chk
  have hbuf : (headerBuffer base r chk)[0] = (encryptVector base r)[0] := by
    rw [headerBuffer, checkBuffer, Vector.getElem_set_ne _ _ (by decide),
      Vector.getElem_set_ne _ _ (by decide)]
  calc (buildHeader base r chk).2[0]
      = (headerBuffer base r chk)[0] ^^^ keystreamByte base := encryptVector_getElem_zero _ _
    _ = r[0] ^^^ keystreamByte base ^^^ keystreamByte base := by
        rw [hbuf, encryptVector_getElem_zero]
    _ = r[0] := by simp

end Sys2Proof.Machine

/-! ## Sequences of commands

`INIT`, `KEY`, `ENCS`, `DECS` and `MKHDR` (R49, R67, R68, R80, R81), the base key over any program
without SAVE (R104), and a reader that decrypts what a writer with the same password encrypted. -/

namespace Sys2Proof.Machine

/-! ### Header bytes in and out -/

section HeaderBytes

/-- R after loading the bytes of `r` at the positions of a list, in order (R76). -/
def loadRandom (r v : Vector Byte 12) (is : List (Fin 12)) : Vector Byte 12 :=
  is.foldl (fun v (i : Fin 12) => v.set i r[i]) v

/-- A byte loaded is that of `r`, any other is as it was (R76). -/
theorem loadRandom_getElem (r v : Vector Byte 12) (is : List (Fin 12)) (j : Fin 12) :
    (loadRandom r v is)[j] = if j ∈ is then r[j] else v[j] := by
  induction is generalizing v with
  | nil => rfl
  | cons i is ih =>
    rw [loadRandom, List.foldl_cons, ← loadRandom, ih]
    by_cases hi : i = j
    · subst hi
      simp
    · simp [Ne.symm hi, Fin.val_ne_of_ne hi]

/-- Each bit of RV after marking the positions of a list (R17). -/
theorem foldl_markRandom_getLsbD (rv : BitVec 12) (is : List (Fin 12)) (j : Fin 12) :
    (is.foldl markRandom rv).getLsbD j.val = (rv.getLsbD j.val || decide (j ∈ is)) := by
  induction is generalizing rv with
  | nil => simp
  | cons i is ih =>
    rw [List.foldl_cons, ih, markRandom_getLsbD, Bool.or_assoc, ← Bool.decide_or]
    simp only [List.mem_cons, eq_comm]

/-- All twelve bytes loaded are `r`, whatever R held. -/
theorem loadRandom_finRange (r v : Vector Byte 12) : loadRandom r v (List.finRange 12) = r :=
  Vector.ext fun i hi => (loadRandom_getElem r v _ ⟨i, hi⟩).trans (if_pos (List.mem_finRange _))

/-- All twelve positions marked are RFULL (R21). -/
theorem foldl_markRandom_finRange (rv : BitVec 12) :
    (List.finRange 12).foldl markRandom rv = 0xFFF := by
  have hfull : (0xFFF : BitVec 12) = BitVec.allOnes 12 := rfl
  apply BitVec.eq_of_getLsbD_eq
  intro i hi
  rw [foldl_markRandom_getLsbD rv _ ⟨i, hi⟩, hfull, BitVec.getLsbD_allOnes]
  simp [hi]

/-- `LDRS` is LDR at every position in order (R49). -/
theorem pseudoLdrs_eq (r : Vector Byte 12) :
    pseudoLdrs r = (List.finRange 12).map fun i => .ldr (BitVec.ofNat 4 i.val) r[i] := by
  refine List.ext_getElem (by simp [pseudoLdrs]) fun i _ _ => ?_
  simp [pseudoLdrs]

/-- The bytes of a vector position by position are its list. -/
theorem map_finRange_getElem {α : Type} (f : Byte → α) (v : Vector Byte 12) :
    ((List.finRange 12).map fun i => f v[i]) = v.toList.map f :=
  List.ext_getElem (by simp) fun i _ _ => by simp

/-- A position in R, H or K is an index in range (R42). -/
theorem ofNat_position_le (i : Fin 12) : (BitVec.ofNat 4 i.val).toNat ≤ 11 :=
  (ofNat_position_toNat i).trans_le (by omega)

end HeaderBytes

section Runs

variable {s : State} (he : s.err = false) (hrsp : s.rsp = none)
include he hrsp

/-- A list of LDR loads its bytes into R and marks them (R76). -/
theorem runCommands_ldr (r : Vector Byte 12) (is : List (Fin 12)) :
    runCommands (is.map fun i => .ldr (BitVec.ofNat 4 i.val) r[i]) s = .next
      { s with
        r := loadRandom r s.r is
        rv := is.foldl markRandom s.rv
        delivered := s.delivered ++ List.replicate is.length 0x0000 } := by
  induction is generalizing s with
  | nil => simp [runCommands_nil, loadRandom]
  | cons i is ih =>
    have hdec := decodeOfEncode (.ldr (BitVec.ofNat 4 i.val) r[i])
      (decide_eq_true (ofNat_position_le i))
    rw [List.map_cons, runCommands_cons_answered hdec (exec_ldr he (ofNat_position_toNat i) r[i]),
      ih (by exact he) rfl, hrsp]
    simp [loadRandom, okResponse, List.replicate_succ]

/-- A list of RDH answers the bytes of H at its positions and changes nothing (R79). -/
theorem runCommands_rdh (hhv : s.hv = true) (is : List (Fin 12)) :
    runCommands (is.map fun i => .rdh (BitVec.ofNat 4 i.val)) s = .next
      { s with delivered := s.delivered ++ is.map fun i => okResponse s.h[i] } := by
  induction is generalizing s with
  | nil => simp [runCommands_nil]
  | cons i is ih =>
    have hdec := decodeOfEncode (.rdh (BitVec.ofNat 4 i.val)) (decide_eq_true (ofNat_position_le i))
    rw [List.map_cons, runCommands_cons_answered hdec (exec_rdh he (ofNat_position_toNat i) hhv),
      ih (by exact he) rfl (by exact hhv), hrsp]
    simp

/-- `LDRS` loads R and sets RFULL (R49, R76). -/
theorem runCommands_pseudoLdrs (r : Vector Byte 12) :
    runCommands (pseudoLdrs r) s = .next
      { s with r := r, rv := 0xFFF, delivered := s.delivered ++ List.replicate 12 0x0000 } := by
  rw [pseudoLdrs_eq, runCommands_ldr he hrsp, loadRandom_finRange, foldl_markRandom_finRange,
    List.length_finRange]

/-- `RDH 0` to `RDH 11` answer the header in order (R81). -/
theorem runCommands_readHeader (hhv : s.hv = true) :
    runCommands readHeader s = .next
      { s with delivered := s.delivered ++ s.h.toList.map okResponse } := by
  have hlist : readHeader = (List.finRange 12).map fun i => .rdh (BitVec.ofNat 4 i.val) := rfl
  rw [hlist, runCommands_rdh he hrsp hhv, map_finRange_getElem]

/-- `MKHDR` with a base key answers fifteen zeros and the header and leaves K the end state of
pass 2 (R81). -/
theorem runCommands_pseudoMkhdr (hbv : s.bv = true) (r : Vector Byte 12) (v : BitVec 16) :
    runCommands (pseudoMkhdr r v) s = .next
      { s with
        r := r
        chk := v
        rv := 0
        cv := 0
        k := (buildHeader s.b r v).1
        kv := true
        h := (buildHeader s.b r v).2
        hv := true
        delivered := s.delivered ++ List.replicate 15 0x0000 ++
          (buildHeader s.b r v).2.toList.map okResponse } := by
  rw [pseudoMkhdr, List.append_assoc, List.append_assoc,
    runCommands_append (runCommands_pseudoLdrs he hrsp r),
    runCommands_append (runCommands_pseudoLdcw (by exact he) (by exact hrsp) v),
    List.singleton_append,
    runCommands_cons_answered rfl (exec_hdr (by exact he) (by exact hbv) rfl rfl),
    runCommands_readHeader (by exact he) rfl rfl]
  simp [hrsp, okResponse, List.replicate_succ]

/-- `DECS` answers the plaintext of its bytes and leaves K at the end state (R68). -/
theorem runCommands_pseudoDecs (hkv : s.kv = true) (cs : List Byte) :
    runCommands (pseudoDecs cs) s = .next
      { s with
        k := (decryptBytes s.k cs).1
        delivered := s.delivered ++ (decryptBytes s.k cs).2.map okResponse } := by
  rw [pseudoDecs]
  induction cs generalizing s with
  | nil => simp [runCommands_nil, decryptBytes]
  | cons c cs ih =>
    rw [List.map_cons, runCommands_cons_answered (decodeOfEncode (.dec c) rfl) (exec_dec he hkv c),
      ih (by exact he) rfl (by exact hkv), hrsp]
    simp [decryptBytes, decryptByte]

end Runs

/-- Settles O45: SEED, then an ADV for each byte. -/
theorem initSequenceDerivesState : Obligations.InitSequenceDerivesState :=
  fun _ pw he hrsp => runCommands_pseudoInit he hrsp pw

/-- Settles O46: by induction on the bytes, one ENC or DEC each. -/
theorem streamSequencesEncryptAndDecrypt : Obligations.StreamSequencesEncryptAndDecrypt :=
  fun _ ps he hrsp hkv =>
    ⟨runCommands_pseudoEncs he hrsp hkv ps, runCommands_pseudoDecs he hrsp hkv ps⟩

/-- Settles O47: `INIT`, then SAVE; and the frame of the other commands. -/
theorem keySequenceSavesBaseKey : Obligations.KeySequenceSavesBaseKey :=
  fun _ pw he hrsp => ⟨runCommands_pseudoKey he hrsp pw, fun _ _ _ => exec_keeps_base⟩

/-- Settles O48: `LDRS` and `LDCW` load every input, so HDR builds the header that RDH reads. -/
theorem makeHeaderSequenceReturnsHeader : Obligations.MakeHeaderSequenceReturnsHeader :=
  fun _ r v he hrsp hbv => ⟨_, runCommands_pseudoMkhdr he hrsp hbv r v, rfl⟩

/-! ### The base key of a password -/

/-- A command other than SAVE keeps the base key of the password (R15). -/
theorem BaseKeyOf.exec {pw : List Byte} {i : Instr} {s t : State} (hs : BaseKeyOf pw s)
    (hi : i ≠ .save) (h : exec i s = .next t) : BaseKeyOf pw t := by
  obtain ⟨hb, hbv⟩ := exec_keeps_base hi h
  exact ⟨hbv.trans hs.1, hb.trans hs.2⟩

/-- A program of legal commands without SAVE keeps the base key of the password (R104). -/
theorem BaseKeyOf.runCommands {pw : List Byte} {is : List Instr} {s t : State}
    (hs : BaseKeyOf pw s) (hsave : noSave is) (hwf : ∀ i ∈ is, i.wellFormed = true)
    (h : runCommands is s = .next t) : BaseKeyOf pw t := by
  induction is generalizing s with
  | nil => cases h; exact hs
  | cons i is ih =>
    obtain ⟨hwfi, hwf⟩ := List.forall_mem_cons.1 hwf
    obtain ⟨hsavei, hsave⟩ := List.forall_mem_cons.1 hsave
    have hdec := decodeOfEncode i hwfi
    obtain ⟨u, hu⟩ := exists_accept (encode i) s
    rw [accept_of_ok hdec] at hu
    rw [runCommands_cons hdec hu] at h
    have hbase := hs.exec hsavei hu
    exact ih ⟨(deliver_bv u).trans hbase.1, (deliver_b u).trans hbase.2⟩ hsave hwf h

/-- Settles O50: the program keeps the base key, and REST copies it to K. -/
theorem baseKeySurvivesWithoutSave : Obligations.BaseKeySurvivesWithoutSave := by
  intro pw is s t hs hsave hwf h
  have ht := hs.runCommands hsave hwf h
  exact ⟨ht, fun he => ⟨_, exec_rest he ht.1, ht.2, rfl⟩⟩

/-! ### Writer and reader -/

/-- The responses of commands that meet no fault report none (R43, R109). -/
theorem cleanRun_map_okResponse (ds : List Byte) : CleanRun (ds.map okResponse) := by
  intro w hw
  obtain ⟨d, -, rfl⟩ := List.mem_map.1 hw
  simp [cleanResponse, okResponse]

/-- Zeros are responses with no data. -/
theorem replicate_zero_eq (n : Nat) :
    List.replicate n (0x0000 : RspWord) = (List.replicate n (0 : Byte)).map okResponse := by
  simp [okResponse]

/-- A run that delivers zeros and then bytes reports no fault. -/
theorem cleanRun_drop {l : List RspWord} (n : Nat) (ds : List Byte) :
    CleanRun ((l ++ List.replicate n 0x0000 ++ ds.map okResponse).drop l.length) := by
  rw [List.append_assoc, List.drop_left, replicate_zero_eq, ← List.map_append]
  exact cleanRun_map_okResponse _

/-- `KEY`, `MKHDR` and `ENCS` of a writer (R80, R81, R68). -/
theorem runCommands_writer {s : State} (he : s.err = false) (hrsp : s.rsp = none)
    (pw ps : List Byte) (r : Vector Byte 12) (v : BitVec 16) :
    ∃ t, runCommands (pseudoKey pw ++ pseudoMkhdr r v ++ pseudoEncs ps) s = .next t ∧
      t.delivered = s.delivered ++ List.replicate (pw.length + 17) 0x0000 ++
        ((buildHeader (initState pw) r v).2.toList ++
          (encryptBytes (buildHeader (initState pw) r v).1 ps).2).map okResponse ∧
      t.k = (encryptBytes (buildHeader (initState pw) r v).1 ps).1 := by
  rw [List.append_assoc, runCommands_append (runCommands_pseudoKey he hrsp pw),
    runCommands_append (runCommands_pseudoMkhdr (by exact he) (by exact hrsp) rfl r v),
    runCommands_pseudoEncs (by exact he) (by exact hrsp) rfl ps]
  have hzeros : List.replicate (pw.length + 17) (0x0000 : RspWord) =
      List.replicate (pw.length + 2) 0x0000 ++ List.replicate 15 0x0000 := by
    rw [List.replicate_append_replicate]
  refine ⟨_, rfl, ?_, rfl⟩
  simp only [hzeros, List.map_append, List.append_assoc]

/-- `KEY`, REST and `DECS` of a reader (R80, R75, R68). -/
theorem runCommands_reader {s : State} (he : s.err = false) (hrsp : s.rsp = none)
    (pw cs : List Byte) :
    ∃ t, runCommands (pseudoKey pw ++ [.rest] ++ pseudoDecs cs) s = .next t ∧
      t.delivered = s.delivered ++ List.replicate (pw.length + 3) 0x0000 ++
        (decryptBytes (initState pw) cs).2.map okResponse ∧
      t.k = (decryptBytes (initState pw) cs).1 := by
  rw [List.append_assoc, runCommands_append (runCommands_pseudoKey he hrsp pw),
    List.singleton_append, runCommands_cons_answered rfl (exec_rest (by exact he) rfl),
    runCommands_pseudoDecs (by exact he) rfl rfl cs]
  refine ⟨_, rfl, ?_, rfl⟩
  simp [List.replicate_add, okResponse]

/-- Header and payload of a writer decrypt, from the base key, to the step-4 buffer and the payload,
and end in the state of the writer (R60, R70). -/
theorem decryptBytes_header_payload (base : Keys) (r : Vector Byte 12) (v : BitVec 16)
    (ps : List Byte) :
    decryptBytes base
        ((buildHeader base r v).2.toList ++ (encryptBytes (buildHeader base r v).1 ps).2) =
      ((encryptBytes (buildHeader base r v).1 ps).1, (headerBuffer base r v).toList ++ ps) := by
  rw [decryptBytes_append, decryptBytes_buildHeader, decryptBytes_encryptBytes]

/-- Settles O54: the reader starts from the state the writer's two passes and payload started
from. -/
theorem readerRecoversCheckValueAndPayload : Obligations.ReaderRecoversCheckValueAndPayload := by
  intro pw ps r v s u hes hrsps heu hrspu
  obtain ⟨s', hs', hdels, hks⟩ := runCommands_writer hes hrsps pw ps r v
  obtain ⟨u', hu', hdelu, hku⟩ := runCommands_reader heu hrspu pw
    ((buildHeader (initState pw) r v).2.toList ++
      (encryptBytes (buildHeader (initState pw) r v).1 ps).2)
  rw [decryptBytes_header_payload] at hdelu hku
  have hbuf := headerBuffer_toList (initState pw) r v
  have hlen : ((encryptBytes (initState pw) r.toList).2.take 10).length = 10 := by
    simp [encryptBytes_length]
  refine ⟨s', u', _, _, _, hs', hdels, by simp, encryptBytes_length _ _, hu', hdelu, by simp,
    ?_, ?_, hku.trans hks.symm, ?_, ?_⟩
  · rw [hbuf, List.getElem?_append_right (by omega), hlen]; rfl
  · rw [hbuf, List.getElem?_append_right (by omega), hlen]; rfl
  · rw [hdels]; exact cleanRun_drop _ _
  · rw [hdelu]; exact cleanRun_drop _ _

end Sys2Proof.Machine
